-- ==== Sys2Proof/Word.lean ====
section
/-!
DEFINITION. The machine's word types.

`00_scope.md` rule R6: a byte is 8 bits, a word is 32 bits, every value is an unsigned bit vector.
Rule R4: the register port has a 4-bit index.
-/

namespace Sys2Proof

/-- A byte (rule R6). -/
abbrev Byte := BitVec 8

/-- A word of 32 bits (rule R6): the width of the port, of a command, of a block, key and round-key word. -/
abbrev Word := BitVec 32

/-- The index of one of the 16 word registers of the port (rules R4, R49). -/
abbrev RegIdx := BitVec 4

end Sys2Proof
end

