-- ==== Sys2Proof/Syntax.lean ====
section
/-!
DEFINITION. The commands, one constructor per row of `spec/opcode_table.json`.

`00_scope.md` rule R9: a command is this hardware's analogue of an instruction. `30_encoding.md`
rules R60 and R61: the only operand field is the 2-bit key-size selector `KSZ`, which KEYEXP, ENCRYPT
and DECRYPT carry and the other four must have 0.
-/

namespace Sys2Proof

/-- A command (rules R61, R63). -/
inductive Instr where
  /-- GENTAB: generate the substitution tables (rule R100). -/
  | gentab
  /-- KEYEXP(ksz): expand the key into the round-key array (rule R110). -/
  | keyexp (ksz : BitVec 2)
  /-- KEYINV: invert the key schedule in place (rule R120). -/
  | keyinv
  /-- ENCBLK: encrypt the block with the context (rule R125). -/
  | encblk
  /-- DECBLK: decrypt the block with the inverted context (rule R135). -/
  | decblk
  /-- ENCRYPT(ksz): the public operation Encrypt (rule R145). -/
  | encrypt (ksz : BitVec 2)
  /-- DECRYPT(ksz): the public operation Decrypt (rule R146). -/
  | decrypt (ksz : BitVec 2)
  deriving DecidableEq, Repr

end Sys2Proof
end

