-- ==== Sys2Proof/WellFormed.lean ====
section
/-!
DEFINITION. Well-formedness: of a command, and of a transfer on a byte-addressed bus.

Rule R62 calls a command with an unsupported key-size selector well formed: it is a command that
fails. So every term of `Instr` is well formed, and what is checked of an encoding (reserved bits, an
unassigned operation code, a selector where none belongs) is checked by the decoder. The transfers of
rule R46 are where an ill-formed request can be expressed.
-/

namespace Sys2Proof

/-- Every term of `Instr` is a well-formed command: `KSZ` is a 2-bit field used as it is, and each of
its four values belongs to a command that rule R63 decodes (rules R62, R63). -/
def Instr.wellFormed : Instr → Bool
  | .gentab => true
  | .keyexp _ => true
  | .keyinv => true
  | .encblk => true
  | .decblk => true
  | .encrypt _ => true
  | .decrypt _ => true

/-- The three checks of rule R46 on a transfer of `width` bytes at byte `offset` from the platform's
base: 32 bits wide, aligned, and inside the 16 registers. -/
def transferWellFormed (offset width : Nat) : Bool :=
  width == 4 && offset % 4 == 0 && offset < 64

end Sys2Proof
end

