-- ==== Sys2Proof/Decode.lean ====
section
/-!
DEFINITION. The decoder `Dec` of `30_encoding.md` rule R63, and the encoder of the same format
(rules R60, R61, R64).

The port carries a command as one whole 32-bit word (rules R60, R66), so the decoder reads a word; no
byte order is involved.
-/

namespace Sys2Proof

/-- Why a word encodes no command. The spec has one outcome, ILLEGAL (rule R65); the names say which
of the decoder's tests refused the word. -/
inductive Illegal where
  /-- a bit of `RSV`, bits 31:6, is set -/
  | reservedBits
  /-- `KSZ` is not 0 in a word whose operation takes no key size (or is unassigned) -/
  | keySizeField
  /-- `OPC` is 0 or 8 to 15 -/
  | unassignedOpcode
  deriving DecidableEq, Repr

/-- Field `OPC`, bits 3:0 (rule R60). -/
def opcField (w : Word) : BitVec 4 := w.extractLsb' 0 4

/-- Field `KSZ`, bits 5:4 (rule R60). -/
def kszField (w : Word) : BitVec 2 := w.extractLsb' 4 2

/-- Field `RSV`, bits 31:6 (rule R60). -/
def rsvField (w : Word) : BitVec 26 := w.extractLsb' 6 26

/-- `Dec` of rule R63: total, in the order of the rule's tests. -/
def decode (w : Word) : Except Illegal Instr :=
  if rsvField w ≠ 0#26 then .error .reservedBits
  else if opcField w = 2#4 then .ok (.keyexp (kszField w))
  else if opcField w = 6#4 then .ok (.encrypt (kszField w))
  else if opcField w = 7#4 then .ok (.decrypt (kszField w))
  else if kszField w ≠ 0#2 then .error .keySizeField
  else if opcField w = 1#4 then .ok .gentab
  else if opcField w = 3#4 then .ok .keyinv
  else if opcField w = 4#4 then .ok .encblk
  else if opcField w = 5#4 then .ok .decblk
  else .error .unassignedOpcode

/-- A command word from its fields, `RSV` = 0 (rule R60). -/
def encodeFields (opc : BitVec 4) (ksz : BitVec 2) : Word := 0#26 ++ ksz ++ opc

/-- The word of a command (rules R61, R64, R67). -/
def encode : Instr → Word
  | .gentab => encodeFields 1#4 0#2
  | .keyexp ksz => encodeFields 2#4 ksz
  | .keyinv => encodeFields 3#4 0#2
  | .encblk => encodeFields 4#4 0#2
  | .decblk => encodeFields 5#4 0#2
  | .encrypt ksz => encodeFields 6#4 ksz
  | .decrypt ksz => encodeFields 7#4 ksz

/-- The command the decoder reads from an instruction of `nbits` bits numbered as
`spec/opcode_table.json` numbers them. A command is exactly one 32-bit word (rule R66), so a number
that does not fit one word is no command. -/
def decodeTableWord (nbits w : Nat) : Option Instr :=
  if w % 2 ^ nbits < 2 ^ 32 then (decode (BitVec.ofNat 32 (w % 2 ^ nbits))).toOption else none

end Sys2Proof
end

