-- ==== Sys2Proof/Machine/State.lean ====
section
/-!
DEFINITION. The machine's state, its reset value, and the reasons a step can stop.

`10_state.md` rule R10 lists the complete machine state; every row is a field of `State` under the
row's name. Four more fields stand beside them: `rst` is the level of the input pin `rst` (rules R29,
R170); `port`, `reads` and `epoch` are the model's own (log entries 1 and 2).
-/

namespace Sys2Proof.Machine

/-- Four words: the register set `BLK[0..3]` (rule R11), and the cipher state of the rounds. -/
structure Block where
  w0 : Word
  w1 : Word
  w2 : Word
  w3 : Word
  deriving DecidableEq, Repr

/-- The register set `KEY[0..7]` (rule R12). -/
structure KeyRegs where
  k0 : Word
  k1 : Word
  k2 : Word
  k3 : Word
  k4 : Word
  k5 : Word
  k6 : Word
  k7 : Word
  deriving DecidableEq, Repr

/-- The supported key sizes (rule R4). -/
inductive KeySize where
  | k128
  | k256
  deriving DecidableEq, Repr

/-- The errors of a command (rule R151). -/
inductive CmdError where
  /-- the key-size selector matches no supported key length (rule R152) -/
  | invalidKeySize
  /-- the pending word encodes no command (rule R153) -/
  | illegalCommand
  /-- KEYINV, ENCBLK or DECBLK with `KSV` = 0 (rule R154) -/
  | noContext
  /-- reserved in the code space and never raised (rule R155) -/
  | invalidBlockLength
  deriving DecidableEq, Repr

/-- One event of the total order of rule R50, as the world outside places it: a port transaction
(rule R41), a transfer on a byte-addressed bus in front of the port (rule R46), a change of the pin
`rst` (rule R170), or a turn of the core sequencer (rule R32). -/
inductive Event where
  /-- `RegRead(idx)` -/
  | regRead (idx : RegIdx)
  /-- `RegWrite(idx, v)` -/
  | regWrite (idx : RegIdx) (v : Word)
  /-- a bus read of `width` bytes at byte `offset` from the platform's base -/
  | busRead (offset width : Nat)
  /-- a bus write of `width` bytes at byte `offset` from the platform's base -/
  | busWrite (offset width : Nat) (v : Word)
  /-- pin `rst` becomes asserted -/
  | rstAssert
  /-- pin `rst` is released -/
  | rstRelease
  /-- the core sequencer may move: it completes a pending command and otherwise does nothing -/
  | core
  deriving DecidableEq, Repr

/-- The machine stops with a fault. -/
inductive Fault where
  /-- Raised by the core's turn in a state with `BUSY` = 1 and `PEND` = none, which rule R34(a) says
  is no reachable state: a completion is enabled and there is no word to complete. SAFE: no step from
  a state of the invariant `MachineInv` raises it. -/
  | busyWithoutCommand
  deriving DecidableEq, Repr

/-- The model has no transition. -/
inductive Refusal where
  /-- Raised by an arm of `exec` whose command has no meaning yet; no arm is such an arm. SAFE. -/
  | notModelled (mnemonic : String)
  /-- Raised by a bus transfer that is not one aligned 32-bit word of the register space: rule R46 says
  what it does is the bus adapter's behaviour and a model refuses it. SAFE. -/
  | unsupportedTransfer
  deriving DecidableEq, Repr

/-- The machine state (rule R10). In the three memories without a reset value, `none` stands for an
entry that is `unspecified` (rules R7, R10; log entry 2). -/
structure State where
  /-- `BLK[0..3]` (rule R11) -/
  blk : Block
  /-- `KEY[0..7]` (rule R12) -/
  key : KeyRegs
  /-- `BUSY` (rule R15) -/
  busy : Bool
  /-- `DONE` (rule R16) -/
  done : Bool
  /-- `TV`, tables valid (rule R18) -/
  tv : Bool
  /-- `KSV`, key schedule valid (rule R19) -/
  ksv : Bool
  /-- `ERR` (rule R17) -/
  err : BitVec 3
  /-- `ROUNDS` (rule R20) -/
  rounds : BitVec 4
  /-- `KEY_WORDS` (rule R20) -/
  keyWords : BitVec 4
  /-- `SBOX[0..255]` (rule R23) -/
  sbox : List (Option Byte)
  /-- `ISBOX[0..255]` (rule R23) -/
  isbox : List (Option Byte)
  /-- `KS[0..59]` (rule R24) -/
  ks : List (Option Word)
  /-- `RCON[0..11]`, read only (rule R25) -/
  rcon : List Byte
  /-- `PEND` (rules R13, R26) -/
  pend : Option Word
  /-- the level of pin `rst`: true while reset is asserted (rules R29, R170) -/
  rst : Bool
  /-- the model's own: the events still to come, the next one first (rules R5, R50; log entry 1) -/
  port : List Event
  /-- the model's own: what the host's reads have returned, oldest first (rule R41; log entry 1) -/
  reads : List Word
  /-- the model's own: how often locations have become `unspecified` (log entry 2) -/
  epoch : Nat
  deriving DecidableEq, Repr

/-- The machine right after reset, the reset column of rule R10: registers and flags 0, `PEND` none,
`SBOX`, `ISBOX` and `KS` without a value, `RCON` its constant; `rst` released, no event waiting. -/
def State.reset : State where
  blk := ⟨0#32, 0#32, 0#32, 0#32⟩
  key := ⟨0#32, 0#32, 0#32, 0#32, 0#32, 0#32, 0#32, 0#32⟩
  busy := false
  done := false
  tv := false
  ksv := false
  err := 0#3
  rounds := 0#4
  keyWords := 0#4
  sbox := List.replicate 256 none
  isbox := List.replicate 256 none
  ks := List.replicate 60 none
  rcon := [0x01#8, 0x02#8, 0x04#8, 0x08#8, 0x10#8, 0x20#8, 0x40#8, 0x80#8, 0x1b#8, 0x36#8, 0x6c#8, 0xd8#8]
  pend := none
  rst := false
  port := []
  reads := []
  epoch := 0

end Sys2Proof.Machine
end

