-- ==== Sys2Proof/Machine/Operands.lean ====
section
/-!
DEFINITION. The operand forms: byte lanes of a word, the big-endian packing of bytes into words,
the registers of the block and of the key, and the key-size selector.
-/

namespace Sys2Proof.Machine

/-! ## Lanes (rule R8) -/

/-- `lane(w, j)`: lane 0 is the most significant byte (rule R8). -/
def lane (w : Word) (j : Fin 4) : Byte := w.extractLsb' (24 - 8 * j.val) 8

/-- `word(b0, b1, b2, b3) = b0 ++ b1 ++ b2 ++ b3` (rule R8). -/
def word (b0 b1 b2 b3 : Byte) : Word := b0 ++ b1 ++ b2 ++ b3

/-! ## The wire format (rules R42, R43) -/

/-- The word of four bytes of the wire format (rule R42). -/
def bigEndianWordOf (b0 b1 b2 b3 : Byte) : Word :=
  (b0.setWidth 32 <<< 24) ||| (b1.setWidth 32 <<< 16) ||| (b2.setWidth 32 <<< 8) ||| b3.setWidth 32

/-- The four bytes of a word on the wire (rule R42). -/
def wordToBigEndianBytes (w : Word) : List Byte :=
  [w.extractLsb' 24 8, w.extractLsb' 16 8, w.extractLsb' 8 8, w.extractLsb' 0 8]

/-- Word `j` of a byte string, its bytes `4j` to `4j+3` (rule R43). -/
def wireWord {n : Nat} (bytes : Vector Byte n) (j : Nat) (h : 4 * j + 3 < n) : Word :=
  bigEndianWordOf bytes[4 * j] bytes[4 * j + 1] bytes[4 * j + 2] bytes[4 * j + 3]

/-- The `BLK` registers that hold a block of 16 bytes (rule R43). -/
def blockOfBytes (b : Vector Byte 16) : Block :=
  ⟨wireWord b 0 (by decide), wireWord b 1 (by decide), wireWord b 2 (by decide), wireWord b 3 (by decide)⟩

/-- The 16 bytes of the block in the `BLK` registers (rule R43). -/
def bytesOfBlock (b : Block) : List Byte :=
  wordToBigEndianBytes b.w0 ++ wordToBigEndianBytes b.w1 ++ wordToBigEndianBytes b.w2 ++ wordToBigEndianBytes b.w3

/-- The `KEY` registers that hold a key of 16 bytes in `KEY[0..3]`; `KEY[4..7]` are those of `k`
(rules R12, R43). -/
def keyOfBytes128 (bytes : Vector Byte 16) (k : KeyRegs) : KeyRegs :=
  { k with
    k0 := wireWord bytes 0 (by decide), k1 := wireWord bytes 1 (by decide)
    k2 := wireWord bytes 2 (by decide), k3 := wireWord bytes 3 (by decide) }

/-- The `KEY` registers that hold a key of 32 bytes in `KEY[0..7]` (rules R12, R43). -/
def keyOfBytes256 (bytes : Vector Byte 32) : KeyRegs :=
  ⟨wireWord bytes 0 (by decide), wireWord bytes 1 (by decide), wireWord bytes 2 (by decide),
    wireWord bytes 3 (by decide), wireWord bytes 4 (by decide), wireWord bytes 5 (by decide),
    wireWord bytes 6 (by decide), wireWord bytes 7 (by decide)⟩

/-! ## The register sets (rules R11, R12) -/

/-- `BLK[j]` (rule R11). -/
def Block.get (b : Block) : Fin 4 → Word
  | 0 => b.w0
  | 1 => b.w1
  | 2 => b.w2
  | 3 => b.w3

/-- `BLK[j] <- v` (rule R11). -/
def Block.set (b : Block) (j : Fin 4) (v : Word) : Block :=
  match j with
  | 0 => { b with w0 := v }
  | 1 => { b with w1 := v }
  | 2 => { b with w2 := v }
  | 3 => { b with w3 := v }

/-- A word function on each of the four words. -/
def Block.map (f : Word → Word) (b : Block) : Block := ⟨f b.w0, f b.w1, f b.w2, f b.w3⟩

/-- `KEY[j] <- v` (rule R12). -/
def KeyRegs.set (k : KeyRegs) (j : Fin 8) (v : Word) : KeyRegs :=
  match j with
  | 0 => { k with k0 := v }
  | 1 => { k with k1 := v }
  | 2 => { k with k2 := v }
  | 3 => { k with k3 := v }
  | 4 => { k with k4 := v }
  | 5 => { k with k5 := v }
  | 6 => { k with k6 := v }
  | 7 => { k with k7 := v }

/-- `KEY[j]` (rule R12). -/
def KeyRegs.get (k : KeyRegs) : Fin 8 → Word
  | 0 => k.k0
  | 1 => k.k1
  | 2 => k.k2
  | 3 => k.k3
  | 4 => k.k4
  | 5 => k.k5
  | 6 => k.k6
  | 7 => k.k7

/-- The key words of a key size: `KEY[0..3]` or `KEY[0..7]` (rules R12, R110). -/
def KeyRegs.words (k : KeyRegs) : KeySize → List Word
  | .k128 => [k.k0, k.k1, k.k2, k.k3]
  | .k256 => [k.k0, k.k1, k.k2, k.k3, k.k4, k.k5, k.k6, k.k7]

/-! ## The key size (rules R4, R62) -/

/-- `key_words` of a key size (rule R62). -/
def KeySize.keyWords : KeySize → Nat
  | .k128 => 4
  | .k256 => 8

/-- `rounds = key_words + 6` (rule R62). -/
def KeySize.rounds (n : KeySize) : Nat := n.keyWords + 6

/-- The key length `KSZ` selects; 2 and 3 match no supported one (rule R62). -/
def selectKeySize (ksz : BitVec 2) : Option KeySize :=
  if ksz = 0#2 then some .k128 else if ksz = 1#2 then some .k256 else none

end Sys2Proof.Machine
end

