-- ==== Sys2Proof/Machine/GfArith.lean ====
section
/-!
DEFINITION. `40_gf_arith.md`: arithmetic in GF(2^8) and the word functions the units share. All are
pure functions; a table is an argument (rules R7, R87).
-/

namespace Sys2Proof.Machine

/-! ## The field -/

/-- Multiplication by 2 (rule R81). -/
def xtime (a : Byte) : Byte := (a <<< 1) ^^^ (if a.getLsbD 7 then 0x1B#8 else 0x00#8)

/-- `xtime^i(a)` (rule R82). -/
def xtimePow : Nat → Byte → Byte
  | 0, a => a
  | i + 1, a => xtime (xtimePow i a)

/-- The XOR of `xtime^i(a)` over the `i` below `n` with `b[i] = 1`. -/
def gmulBelow (a b : Byte) : Nat → Byte
  | 0 => 0x00#8
  | n + 1 => gmulBelow a b n ^^^ (if b.getLsbD n then xtimePow n a else 0x00#8)

/-- The field product (rule R82). -/
def gmul (a b : Byte) : Byte := gmulBelow a b 8

/-- Rotation of a byte toward the most significant end by `k`, 1 ≤ k ≤ 7 (rule R84). -/
def rotl8 (a : Byte) (k : Nat) : Byte := (a <<< k) ||| (a >>> (8 - k))

/-! ## Word functions -/

/-- Rotation by one lane toward the most significant end (rule R86). -/
def rotWord (w : Word) : Word := (w <<< 8) ||| (w >>> 24)

/-- The table applied to each lane (rule R87). -/
def subWord (w : Word) (table : Byte → Byte) : Word :=
  word (table (lane w 0)) (table (lane w 1)) (table (lane w 2)) (table (lane w 3))

/-- Forward column mixing of one word (rule R88). -/
def mixWord (w : Word) : Word :=
  let a0 := lane w 0
  let a1 := lane w 1
  let a2 := lane w 2
  let a3 := lane w 3
  word
    (gmul a0 2 ^^^ gmul a1 3 ^^^ a2 ^^^ a3)
    (a0 ^^^ gmul a1 2 ^^^ gmul a2 3 ^^^ a3)
    (a0 ^^^ a1 ^^^ gmul a2 2 ^^^ gmul a3 3)
    (gmul a0 3 ^^^ a1 ^^^ a2 ^^^ gmul a3 2)

/-- Inverse column mixing of one word (rule R89). -/
def invMixWord (w : Word) : Word :=
  let a0 := lane w 0
  let a1 := lane w 1
  let a2 := lane w 2
  let a3 := lane w 3
  word
    (gmul a0 14 ^^^ gmul a1 11 ^^^ gmul a2 13 ^^^ gmul a3 9)
    (gmul a0 9 ^^^ gmul a1 14 ^^^ gmul a2 11 ^^^ gmul a3 13)
    (gmul a0 13 ^^^ gmul a1 9 ^^^ gmul a2 14 ^^^ gmul a3 11)
    (gmul a0 11 ^^^ gmul a1 13 ^^^ gmul a2 9 ^^^ gmul a3 14)

/-- The round key combined with the state by XOR (rule R91). -/
def addRoundKey (s k : Block) : Block := ⟨s.w0 ^^^ k.w0, s.w1 ^^^ k.w1, s.w2 ^^^ k.w2, s.w3 ^^^ k.w3⟩

/-- Round key `n` of a key schedule, its words `4n` to `4n+3` (rule R9). -/
def roundKey (ks : Nat → Word) (n : Nat) : Block := ⟨ks (4 * n), ks (4 * n + 1), ks (4 * n + 2), ks (4 * n + 3)⟩

end Sys2Proof.Machine
end

