-- ==== Sys2Proof/Config.lean ====
section
/-!
DEFINITION. The free values: what a memory location that holds no value would read as, and what lies
beyond the end of a sequence.

`93_implementation_defined.md` rows U9 and U10 give the treatment `any value` to locations that the
spec calls `unspecified`. Each constant below has no body, so no proof can rest on what it is. The
first argument of the `unspecified` ones is `State.epoch`, the model's own counter of the times at
which locations lost their values. The OPEN parameters of `92_eei_decisions.md` (`BUS`, `BYTE_LANES`,
`LAT`, the form of `rst` and of `clk`) appear in no rule's pseudocode and need no constant here; that
latency is open is in the free placing of the core's turn among the port's events (`Event.core`).
-/

namespace Sys2Proof.Config

/-- FREE VALUE (log entry 2): what an entry of `SBOX` without a value reads as. -/
opaque unspecifiedSbox : Nat → Nat → Byte

/-- FREE VALUE (log entry 2): what an entry of `ISBOX` without a value reads as. -/
opaque unspecifiedIsbox : Nat → Nat → Byte

/-- FREE VALUE (log entry 2): what a word of `KS` without a value reads as. -/
opaque unspecifiedKs : Nat → Nat → Word

/-- FREE VALUE (log entry 3): a byte at an index where a local table of a rule has no entry. -/
opaque undefinedByte : Nat → Byte

/-- FREE VALUE (log entry 3): a word at an index where a local sequence of a rule has no element. -/
opaque undefinedWord : Nat → Word

end Sys2Proof.Config
end

