-- ==== Sys2Proof/Machine/Flags.lean ====
section
/-!
DEFINITION. The status fields: the error codes, the `STATUS` word and the output pins.
-/

namespace Sys2Proof.Machine

/-- The value of `ERR` for an error (rule R151). -/
def CmdError.code : CmdError → BitVec 3
  | .invalidKeySize => 1#3
  | .illegalCommand => 2#3
  | .noContext => 3#3
  | .invalidBlockLength => 4#3

/-- The value of `ERR` after a successful command (rules R17, R151). -/
def noError : BitVec 3 := 0#3

/-- The value a port read of `STATUS` returns (rule R14):
`zext_32(KEY_WORDS ++ ROUNDS ++ 0b0 ++ ERR ++ KSV ++ TV ++ DONE ++ BUSY)`. -/
def State.status (s : State) : Word :=
  (s.keyWords ++ s.rounds ++ 0#1 ++ s.err ++ BitVec.ofBool s.ksv ++ BitVec.ofBool s.tv
    ++ BitVec.ofBool s.done ++ BitVec.ofBool s.busy).setWidth 32

/-- Output pin `busy` (rule R29). -/
def State.busyPin (s : State) : Bool := s.busy

/-- Output pin `done` (rules R29, R159). -/
def State.donePin (s : State) : Bool := s.done

/-- Output pin `err`: 1 when `ERR` is not 0 (rules R29, R159). -/
def State.errPin (s : State) : Bool := s.err != 0#3

end Sys2Proof.Machine
end

