-- ==== Sys2Proof/Machine/Ops.lean ====
section
/-!
DEFINITION. The named operations over the memories and the registers: reading and writing the
internal memories, the steps of rules R30 to R32 that every command goes through (accept, completion,
failure), the port's reads and writes, and reset.

A failing completion is this hardware's form of taking an exception (rule R157), and the acceptance
of the next command is what clears it (rule R158); there is no return from one.
-/

namespace Sys2Proof.Machine

/-! ## The internal memories (rules R23, R24, R25, R40) -/

/-- Entry `i` of a memory, or the free value where it holds none (rule R7; log entry 2). -/
def readEntry {α : Type} (free : Nat → α) (m : List (Option α)) (i : Nat) : α :=
  match m[i]? with
  | some (some v) => v
  | _ => free i

/-- The memory with the entries `lo ≤ i < hi` written from `f`, which is applied to the entry's index;
the first entry of the list has index `at_`. -/
def writeEntriesFrom {α : Type} (lo hi : Nat) (f : Nat → α) : Nat → List (Option α) → List (Option α)
  | _, [] => []
  | at_, e :: rest =>
    (if lo ≤ at_ ∧ at_ < hi then some (f at_) else e) :: writeEntriesFrom lo hi f (at_ + 1) rest

/-- `for i in lo .. hi-1: m[i] <- f(i)`. -/
def writeEntries {α : Type} (lo hi : Nat) (f : Nat → α) (m : List (Option α)) : List (Option α) :=
  writeEntriesFrom lo hi f 0 m

/-- `SBOX[b]` (rule R23). -/
def State.sboxAt (s : State) (b : Byte) : Byte :=
  readEntry (Config.unspecifiedSbox s.epoch) s.sbox b.toNat

/-- `ISBOX[b]` (rule R23). -/
def State.isboxAt (s : State) (b : Byte) : Byte :=
  readEntry (Config.unspecifiedIsbox s.epoch) s.isbox b.toNat

/-- `KS[i]` (rule R24). -/
def State.ksAt (s : State) (i : Nat) : Word :=
  readEntry (Config.unspecifiedKs s.epoch) s.ks i

/-- `RCON[n]` (rule R25). -/
def State.rconAt (s : State) (n : Nat) : Byte := s.rcon.getD n (Config.undefinedByte n)

/-- Element `i` of a local sequence of words; an index beyond its end, which no rule uses, gives a
free value (log entry 3). -/
def wordAt (ws : List Word) (i : Nat) : Word := ws.getD i (Config.undefinedWord i)

/-! ## The steps of a command (rules R30, R32, R157) -/

/-- Acceptance of the command word `w` (rule R30). -/
def accept (w : Word) (s : State) : State :=
  { s with pend := some w, busy := true, done := false, err := 0#3 }

/-- The part of a completion that every command has: `ERR <- code; DONE <- 1; BUSY <- 0; PEND <- none`
(rule R32). -/
def complete (code : BitVec 3) (s : State) : State :=
  { s with err := code, done := true, busy := false, pend := none }

/-- A command that ends normally (rule R32). -/
def succeed (s : State) : State := complete noError s

/-- A failing completion, `fail <Error>`: nothing but the status fields changes (rules R7, R157). -/
def fail (e : CmdError) (s : State) : State := complete e.code s

/-- The IllegalCommand rule (rule R153). -/
def illegalCommand (s : State) : State := fail .illegalCommand s

/-- The end of the context after a successful ENCRYPT or DECRYPT: `KSV`, `ROUNDS`, `KEY_WORDS` are 0
and every entry of `KS` is `unspecified` (rules R145, R146). -/
def destroyContext (s : State) : State :=
  { s with ksv := false, rounds := 0#4, keyWords := 0#4, ks := List.replicate 60 none, epoch := s.epoch + 1 }

/-! ## The port (rules R41, R49) -/

/-- What `RegRead(idx)` returns (rule R41). -/
def regRead (idx : RegIdx) (s : State) : Word :=
  match idx.toNat with
  | 1 => s.status
  | 4 => s.blk.get 0
  | 5 => s.blk.get 1
  | 6 => s.blk.get 2
  | 7 => s.blk.get 3
  | _ => 0#32

/-- `RegWrite(idx, v)` on an idle core (rules R30, R31, R41). -/
def regWriteIdle (idx : RegIdx) (v : Word) (s : State) : State :=
  match idx.toNat with
  | 0 => accept v s
  | 4 => { s with blk := s.blk.set 0 v }
  | 5 => { s with blk := s.blk.set 1 v }
  | 6 => { s with blk := s.blk.set 2 v }
  | 7 => { s with blk := s.blk.set 3 v }
  | 8 => { s with key := s.key.set 0 v }
  | 9 => { s with key := s.key.set 1 v }
  | 10 => { s with key := s.key.set 2 v }
  | 11 => { s with key := s.key.set 3 v }
  | 12 => { s with key := s.key.set 4 v }
  | 13 => { s with key := s.key.set 5 v }
  | 14 => { s with key := s.key.set 6 v }
  | 15 => { s with key := s.key.set 7 v }
  | _ => s

/-- `RegWrite(idx, v)`: dropped while `BUSY` = 1 (rule R41) and without effect while `rst` is asserted
(rule R170). -/
def regWrite (idx : RegIdx) (v : Word) (s : State) : State :=
  if s.rst || s.busy then s else regWriteIdle idx v s

/-- The read with its value recorded for the host (rule R41; log entry 1). -/
def hostRead (idx : RegIdx) (s : State) : State := { s with reads := s.reads ++ [regRead idx s] }

/-! ## Reset (rules R33, R170, R171) -/

/-- Pin `rst` becomes asserted: the state becomes the reset column of rule R10, `RCON` keeps its
constant and a pending command is abandoned. What stays is the model's own: the events to come, the
reads recorded, and the count of times at which locations lost their values, one higher. -/
def assertReset (s : State) : State :=
  { State.reset with rcon := s.rcon, rst := true, port := s.port, reads := s.reads, epoch := s.epoch + 1 }

/-- Pin `rst` is released (rule R170). -/
def releaseReset (s : State) : State := { s with rst := false }

end Sys2Proof.Machine
end

