-- ==== Sys2Proof/Machine/SboxGen.lean ====
section
/-!
DEFINITION. `41_sbox_gen.md`: the substitution table generator, the command GENTAB, and the implicit
generation `EnsureTables`.
-/

namespace Sys2Proof.Machine

/-! ## The algorithm (rules R101 to R105) -/

/-- `n` successive powers of the generator 0x03 from `a` on: each step is `a ^ xtime(a)` (rule R101). -/
def powersFrom : Nat → Byte → List Byte
  | 0, _ => []
  | n + 1, a => a :: powersFrom n (a ^^^ xtime a)

/-- `alog[0..255]` (rule R101). -/
def alogTable : List Byte := powersFrom 256 0x01#8

/-- `alog[i]` (rule R101); an index above 255, which no rule uses, gives a free value (log entry 3). -/
def alog (i : Nat) : Byte := alogTable.getD i (Config.undefinedByte i)

/-- `log[x]`, the `i` in 0..254 with `alog[i] = x`; `none` for `x` = 0, where it is not defined
(rule R101). -/
def log (x : Byte) : Option Nat := (alogTable.take 255).findIdx? (· == x)

/-- `Inv(x) = alog[255 - log[x]]` (rule R102). It is not defined at 0 and not called there; the model
gives a free value (log entry 3). -/
def inv (x : Byte) : Byte :=
  match log x with
  | some i => alog (255 - i)
  | none => Config.undefinedByte x.toNat

/-- The affine transform with the constant 0x63 (rule R103). -/
def affine (y : Byte) : Byte := y ^^^ rotl8 y 1 ^^^ rotl8 y 2 ^^^ rotl8 y 3 ^^^ rotl8 y 4 ^^^ 0x63#8

/-- `sbox'[x]` (rule R104). -/
def sboxEntry (x : Byte) : Byte := if x = 0x00#8 then 0x63#8 else affine (inv x)

/-- All bytes in order. -/
def allBytes : List Byte := (List.range 256).map (BitVec.ofNat 8)

/-- The forward table of `GenTables` (rule R104). -/
def genSbox : List Byte := allBytes.map sboxEntry

/-- `isbox'[y]`: the `x` with `sbox'[x] = y` (rule R105). Every `y` has exactly one; a `y` without one,
which there is not, would give a free value (log entry 3). -/
def isboxEntry (y : Byte) : Byte :=
  match genSbox.findIdx? (· == y) with
  | some x => BitVec.ofNat 8 x
  | none => Config.undefinedByte y.toNat

/-- The inverse table of `GenTables` (rule R105). -/
def genIsbox : List Byte := allBytes.map isboxEntry

/-! ## Generation as a change of state (rules R100, R106) -/

/-- The writes of GENTAB: all 512 entries, and `TV <- 1` (rule R100). -/
def generateTables (s : State) : State :=
  { s with sbox := genSbox.map some, isbox := genIsbox.map some, tv := true }

/-- `EnsureTables` (rule R106). -/
def ensureTables (s : State) : State := if s.tv then s else generateTables s

/-- GENTAB (rule R100). -/
def execGentab (s : State) : Host.Outcome State Fault Refusal := .next (succeed (generateTables s))

end Sys2Proof.Machine
end

