-- ==== Sys2Proof/Machine/KeySched.lean ====
section
/-!
DEFINITION. `42_key_sched.md`: the key scheduler and the command KEYEXP.
-/

namespace Sys2Proof.Machine

/-- `tmp` of round-key word `i`, from `ks[i-1]` and the round-constant index (rule R111). -/
def scheduleWord (sbox : Byte → Byte) (rcon : Nat → Byte) (keyWords i rc : Nat) (prev : Word) : Word :=
  if i % keyWords = 0 then rotWord (subWord prev sbox) ^^^ ((rcon rc).setWidth 32 <<< 24)
  else if keyWords = 8 ∧ i % keyWords = 4 then subWord prev sbox
  else prev

/-- The loop of rule R111: `n` more words after the sequence `ks`, with round-constant index `rc`. The
word index `i` is the length of the sequence so far. -/
def expandWords (sbox : Byte → Byte) (rcon : Nat → Byte) (keyWords : Nat) : Nat → Nat → List Word → List Word
  | 0, _, ks => ks
  | n + 1, rc, ks =>
    let i := ks.length
    let tmp := scheduleWord sbox rcon keyWords i rc (wordAt ks (i - 1))
    expandWords sbox rcon keyWords n (if i % keyWords = 0 then rc + 1 else rc)
      (ks ++ [wordAt ks (i - keyWords) ^^^ tmp])

/-- `KeyExpand(k, key_words)` (rule R111), on the key words of the key registers. -/
def keyExpand (sbox : Byte → Byte) (rcon : Nat → Byte) (size : KeySize) (key : KeyRegs) : List Word :=
  expandWords sbox rcon size.keyWords (4 * (size.rounds + 1) - size.keyWords) 0 (key.words size)

/-- The writes of a successful KEYEXP: `KS`, `ROUNDS`, `KEY_WORDS`, `KSV <- 1` (rule R110). -/
def setContext (size : KeySize) (words : List Word) (s : State) : State :=
  { s with
    ks := writeEntries 0 (4 * (size.rounds + 1)) (wordAt words) s.ks
    rounds := BitVec.ofNat 4 size.rounds
    keyWords := BitVec.ofNat 4 size.keyWords
    ksv := true }

/-- KEYEXP of a supported key size (rule R110). -/
def expandKey (size : KeySize) (s : State) : State :=
  let t := ensureTables s
  setContext size (keyExpand t.sboxAt t.rconAt size t.key) t

/-- KEYEXP (rules R110, R113). -/
def execKeyexp (ksz : BitVec 2) (s : State) : Host.Outcome State Fault Refusal :=
  match selectKeySize ksz with
  | none => .next (fail .invalidKeySize s)
  | some size => .next (succeed (expandKey size s))

end Sys2Proof.Machine
end

