-- ==== Sys2Proof/Machine/KeyInv.lean ====
section
/-!
DEFINITION. `43_key_inv.md`: the key schedule inverter and the command KEYINV.
-/

namespace Sys2Proof.Machine

/-- `KeyInvert(ks, rounds)`, word by word (rule R121). -/
def keyInvert (ks : Nat → Word) (rounds : Nat) (i : Nat) : Word :=
  if 4 ≤ i ∧ i < 4 * rounds then invMixWord (ks i) else ks i

/-- The writes of a successful KEYINV: `KS[4 .. 4*ROUNDS-1]` (rule R120). -/
def invertSchedule (s : State) : State :=
  { s with ks := writeEntries 4 (4 * s.rounds.toNat) (keyInvert s.ksAt s.rounds.toNat) s.ks }

/-- KEYINV (rule R120). -/
def execKeyinv (s : State) : Host.Outcome State Fault Refusal :=
  if s.ksv then .next (succeed (invertSchedule s)) else .next (fail .noContext s)

end Sys2Proof.Machine
end

