-- ==== Sys2Proof/Machine/Encrypt.lean ====
section
/-!
DEFINITION. `44_encrypt.md`: the block transform engine, forward, and the command ENCBLK.
-/

namespace Sys2Proof.Machine

/-- `SubShift(s)`: lane `j` of output word `c` comes from lane `j` of input word `(c+j) mod 4`
(rule R127). -/
def subShift (sbox : Byte → Byte) (s : Block) : Block where
  w0 := word (sbox (lane s.w0 0)) (sbox (lane s.w1 1)) (sbox (lane s.w2 2)) (sbox (lane s.w3 3))
  w1 := word (sbox (lane s.w1 0)) (sbox (lane s.w2 1)) (sbox (lane s.w3 2)) (sbox (lane s.w0 3))
  w2 := word (sbox (lane s.w2 0)) (sbox (lane s.w3 1)) (sbox (lane s.w0 2)) (sbox (lane s.w1 3))
  w3 := word (sbox (lane s.w3 0)) (sbox (lane s.w0 1)) (sbox (lane s.w1 2)) (sbox (lane s.w2 3))

/-- Round `r` of `rounds`: three stages, each over all four words (rules R126, R128). -/
def encryptRound (sbox : Byte → Byte) (ks : Nat → Word) (rounds r : Nat) (s : Block) : Block :=
  let t := subShift sbox s
  let mixed := if r < rounds - 1 then t.map mixWord else t
  addRoundKey mixed (roundKey ks (r + 1))

/-- The state after the rounds `0 .. n-1`. -/
def encryptRounds (sbox : Byte → Byte) (ks : Nat → Word) (rounds : Nat) : Nat → Block → Block
  | 0, s => s
  | n + 1, s => encryptRound sbox ks rounds n (encryptRounds sbox ks rounds n s)

/-- `EncryptBlock(b, ks, rounds)` (rule R126). -/
def encryptBlock (sbox : Byte → Byte) (ks : Nat → Word) (rounds : Nat) (b : Block) : Block :=
  encryptRounds sbox ks rounds rounds (addRoundKey b (roundKey ks 0))

/-- The writes of a successful ENCBLK (rule R125). -/
def encryptInPlace (s : State) : State :=
  let t := ensureTables s
  { t with blk := encryptBlock t.sboxAt t.ksAt t.rounds.toNat t.blk }

/-- ENCBLK (rule R125). -/
def execEncblk (s : State) : Host.Outcome State Fault Refusal :=
  if s.ksv then .next (succeed (encryptInPlace s)) else .next (fail .noContext s)

end Sys2Proof.Machine
end

