-- ==== Sys2Proof/Machine/Decrypt.lean ====
section
/-!
DEFINITION. `45_decrypt.md`: the block transform engine, inverse, and the command DECBLK.
-/

namespace Sys2Proof.Machine

/-- `InvSubShift(s)`: lane `j` of output word `c` comes from lane `j` of input word `(c-j) mod 4`
(rule R137). -/
def invSubShift (isbox : Byte → Byte) (s : Block) : Block where
  w0 := word (isbox (lane s.w0 0)) (isbox (lane s.w3 1)) (isbox (lane s.w2 2)) (isbox (lane s.w1 3))
  w1 := word (isbox (lane s.w1 0)) (isbox (lane s.w0 1)) (isbox (lane s.w3 2)) (isbox (lane s.w2 3))
  w2 := word (isbox (lane s.w2 0)) (isbox (lane s.w1 1)) (isbox (lane s.w0 2)) (isbox (lane s.w3 3))
  w3 := word (isbox (lane s.w3 0)) (isbox (lane s.w2 1)) (isbox (lane s.w1 2)) (isbox (lane s.w0 3))

/-- Round `r` of `rounds`, which adds round key `rounds-1-r` (rule R136). -/
def decryptRound (isbox : Byte → Byte) (dk : Nat → Word) (rounds r : Nat) (s : Block) : Block :=
  let t := invSubShift isbox s
  let mixed := if r < rounds - 1 then t.map invMixWord else t
  addRoundKey mixed (roundKey dk (rounds - 1 - r))

/-- The state after the rounds `0 .. n-1`. -/
def decryptRounds (isbox : Byte → Byte) (dk : Nat → Word) (rounds : Nat) : Nat → Block → Block
  | 0, s => s
  | n + 1, s => decryptRound isbox dk rounds n (decryptRounds isbox dk rounds n s)

/-- `DecryptBlock(b, dk, rounds)` (rule R136). -/
def decryptBlock (isbox : Byte → Byte) (dk : Nat → Word) (rounds : Nat) (b : Block) : Block :=
  decryptRounds isbox dk rounds rounds (addRoundKey b (roundKey dk rounds))

/-- The writes of a successful DECBLK (rule R135). -/
def decryptInPlace (s : State) : State :=
  let t := ensureTables s
  { t with blk := decryptBlock t.isboxAt t.ksAt t.rounds.toNat t.blk }

/-- DECBLK (rules R135, R138). -/
def execDecblk (s : State) : Host.Outcome State Fault Refusal :=
  if s.ksv then .next (succeed (decryptInPlace s)) else .next (fail .noContext s)

end Sys2Proof.Machine
end

