-- ==== Sys2Proof/Machine/Composite.lean ====
section
/-!
DEFINITION. `46_composite.md`: the public operations, commands ENCRYPT and DECRYPT.
-/

namespace Sys2Proof.Machine

/-- The number of rounds of the public operations, whose key has 128 bits (rules R4, R145, R146). -/
def publicRounds : Nat := KeySize.rounds .k128

/-- The key schedule a composite command computes from `KEY[0..3]` (rules R145, R146). -/
def publicSchedule (s : State) : Nat → Word := wordAt (keyExpand s.sboxAt s.rconAt .k128 s.key)

/-- The writes of a successful ENCRYPT (rule R145). -/
def encryptPublic (s : State) : State :=
  let t := ensureTables s
  destroyContext { t with blk := encryptBlock t.sboxAt (publicSchedule t) publicRounds t.blk }

/-- ENCRYPT (rule R145). -/
def execEncrypt (ksz : BitVec 2) (s : State) : Host.Outcome State Fault Refusal :=
  if ksz = 0#2 then .next (succeed (encryptPublic s)) else .next (fail .invalidKeySize s)

/-- The writes of a successful DECRYPT (rule R146). -/
def decryptPublic (s : State) : State :=
  let t := ensureTables s
  destroyContext
    { t with blk := decryptBlock t.isboxAt (keyInvert (publicSchedule t) publicRounds) publicRounds t.blk }

/-- DECRYPT (rule R146). -/
def execDecrypt (ksz : BitVec 2) (s : State) : Host.Outcome State Fault Refusal :=
  if ksz = 0#2 then .next (succeed (decryptPublic s)) else .next (fail .invalidKeySize s)

end Sys2Proof.Machine
end

