-- ==== Sys2Proof/Machine/Dispatch.lean ====
section
/-!
DEFINITION. `Exec` of rule R32 on a decoded command: one arm per command, one meaning per arm.
-/

namespace Sys2Proof.Machine

def exec (i : Instr) (s : State) : Host.Outcome State Fault Refusal :=
  match i with
  | .gentab => Sys2Proof.Machine.execGentab s
  | .keyexp ksz => Sys2Proof.Machine.execKeyexp ksz s
  | .keyinv => Sys2Proof.Machine.execKeyinv s
  | .encblk => Sys2Proof.Machine.execEncblk s
  | .decblk => Sys2Proof.Machine.execDecblk s
  | .encrypt ksz => Sys2Proof.Machine.execEncrypt ksz s
  | .decrypt ksz => Sys2Proof.Machine.execDecrypt ksz s

end Sys2Proof.Machine
end

