-- ==== Sys2Proof/Machine/Sequencer.lean ====
section
/-!
DEFINITION. The core sequencer's turn, and the effect of each event of the total order of rule R50.
-/

namespace Sys2Proof.Machine

/-- Completion of the pending word `w`: decode it, then run the command's rule or the IllegalCommand
rule (rule R32). -/
def completePending (w : Word) (s : State) : Host.Outcome State Fault Refusal :=
  match decode w with
  | .ok i => exec i s
  | .error _ => .next (illegalCommand s)

/-- The core's turn (rule R32): completion is enabled exactly when `BUSY` = 1; an idle core does
nothing (rule R163), and nothing moves while `rst` is asserted (rule R170). -/
def coreTurn (s : State) : Host.Outcome State Fault Refusal :=
  if s.rst || !s.busy then .next s
  else
    match s.pend with
    | some w => completePending w s
    | none => .fault .busyWithoutCommand

/-- The register a bus transfer addresses: `idx` is at byte offset `4 * idx` from the base (rule R46).
`none` for a transfer that is not one aligned 32-bit word of the register space. -/
def transferIndex (offset width : Nat) : Option RegIdx :=
  if transferWellFormed offset width then some (BitVec.ofNat 4 (offset / 4)) else none

/-- The effect of one event. -/
def runEvent (e : Event) (s : State) : Host.Outcome State Fault Refusal :=
  match e with
  | .regRead idx => .next (hostRead idx s)
  | .regWrite idx v => .next (regWrite idx v s)
  | .busRead offset width =>
    match transferIndex offset width with
    | some idx => .next (hostRead idx s)
    | none => .refused .unsupportedTransfer
  | .busWrite offset width v =>
    match transferIndex offset width with
    | some idx => .next (regWrite idx v s)
    | none => .refused .unsupportedTransfer
  | .rstAssert => .next (assertReset s)
  | .rstRelease => .next (releaseReset s)
  | .core => coreTurn s

/-- One step: the next event if one waits, else the core's turn (rules R5, R50, R185). -/
def advance (s : State) : Host.Outcome State Fault Refusal :=
  match s.port with
  | e :: rest => runEvent e { s with port := rest }
  | [] => coreTurn s

/-- The state in which the very next step completes the word `w`: `w` accepted (rule R30), no event
before the core's turn, `rst` released. -/
def latchCommand (w : Word) (s : State) : State := { accept w s with port := [], rst := false }

end Sys2Proof.Machine
end

