-- ==== Sys2Proof/Machine/Step.lean ====
section
/-!
DEFINITION. One step of the machine, and the placing of a command where the next step runs it.
-/

namespace Sys2Proof.Machine

/-- One step of the machine (rules R5, R30 to R33, R50). -/
def step (s : State) : Host.Outcome State Fault Refusal := advance s

/-- `s` with the command word of `nbits` bits `w` latched in `PEND`, so that the very next step runs it.
This hardware has no program counter and fetches nothing (rule R13): a command comes from an accepted
write to `CMD`, for which this stands (log entry 4). -/
def State.withFetchWord (s : State) (nbits w : Nat) : State := latchCommand (BitVec.ofNat 32 (w % 2 ^ nbits)) s

end Sys2Proof.Machine
end

