-- ==== Sys2Proof/Machine/HostLines.lean ====
section
/-!
DEFINITION. The host lines of `30_encoding.md` rules R67 and R68 as events. They are notation for a
host's actions, not hardware; the tests write their sequences with them.
-/

namespace Sys2Proof.Machine

/-- `CMD <mnemonic>` (rule R67). -/
def lineCmd (i : Instr) : List Event := [.regWrite 0#4 (encode i)]

/-- `RESET` (rule R67): the pin `rst` asserted and released. -/
def lineReset : List Event := [.rstAssert, .rstRelease]

/-- `WAIT` (rule R68): the core completes what is pending, and the last `RD STATUS` of the loop returns
the value with `BUSY` = 0. The reads before it change nothing (rule R41). -/
def lineWait : List Event := [.core, .regRead 1#4]

/-- `RUN <mnemonic>` (rule R68). -/
def lineRun (i : Instr) : List Event := lineCmd i ++ lineWait

/-- The writes of `LDBLK` (rule R68), on the block's words. -/
def lineLoadBlock (b : Block) : List Event :=
  [.regWrite 4#4 b.w0, .regWrite 5#4 b.w1, .regWrite 6#4 b.w2, .regWrite 7#4 b.w3]

/-- The writes of `LDKEY128` and `LDKEY256` (rule R68), on the key's words. -/
def lineLoadKey (size : KeySize) (k : KeyRegs) : List Event :=
  let low := [Event.regWrite 8#4 k.k0, .regWrite 9#4 k.k1, .regWrite 10#4 k.k2, .regWrite 11#4 k.k3]
  match size with
  | .k128 => low
  | .k256 => low ++ [.regWrite 12#4 k.k4, .regWrite 13#4 k.k5, .regWrite 14#4 k.k6, .regWrite 15#4 k.k7]

/-- `LDBLK` of the 16 bytes its digits spell (rules R43, R68). -/
def lineLoadBlockBytes (bytes : Vector Byte 16) : List Event := lineLoadBlock (blockOfBytes bytes)

/-- `LDKEY128` of the 16 bytes its digits spell (rules R43, R68). The line writes `KEY[0..3]` only, so
what stands in the upper registers here has no part in it. -/
def lineLoadKey128 (bytes : Vector Byte 16) : List Event := lineLoadKey .k128 (keyOfBytes128 bytes State.reset.key)

/-- `LDKEY256` of the 32 bytes its digits spell (rules R43, R68). -/
def lineLoadKey256 (bytes : Vector Byte 32) : List Event := lineLoadKey .k256 (keyOfBytes256 bytes)

/-- `RDBLK` (rule R68). -/
def lineReadBlock : List Event := [.regRead 4#4, .regRead 5#4, .regRead 6#4, .regRead 7#4]

/-- The result of `RDBLK`: the byte string of the values read, in order (rule R68). -/
def bytesOfReads (values : List Word) : List Byte := values.flatMap wordToBigEndianBytes

/-- A run has ended when its last line is done and `BUSY` = 0 (rule R186). -/
def State.runEnded (s : State) : Bool := s.port.isEmpty && !s.busy

end Sys2Proof.Machine
end

