-- ==== Sys2Proof/Safety.lean ====
section
/-!
DEFINITION. What holds of every reachable state (`10_state.md` rules R19, R23, R24, R25, R34), and what
a safe run is.
-/

namespace Sys2Proof

open Machine

/-- The memories have the sizes of rule R10, whatever entries hold a value. -/
structure MemoryWf (s : State) : Prop where
  sbox_length : s.sbox.length = 256
  isbox_length : s.isbox.length = 256
  ks_length : s.ks.length = 60
  rcon_constant : s.rcon = State.reset.rcon

/-- The reset column of rule R10: what the state is while `rst` is asserted (rule R170). -/
structure AtReset (s : State) : Prop where
  blk : s.blk = State.reset.blk
  key : s.key = State.reset.key
  busy : s.busy = false
  done : s.done = false
  tv : s.tv = false
  ksv : s.ksv = false
  err : s.err = 0#3
  rounds : s.rounds = 0#4
  keyWords : s.keyWords = 0#4
  sbox : s.sbox = List.replicate 256 none
  isbox : s.isbox = List.replicate 256 none
  ks : s.ks = List.replicate 60 none
  pend : s.pend = none

/-- The invariants of every reachable state: rule R34 (a) to (e) and (g), rule R19 for the words of a
valid context, rules R24 and R25 for the memories, rule R170 for the time `rst` is asserted. -/
structure MachineInv (s : State) : Prop where
  /-- R34(a) -/
  busy_iff_pending : s.busy = s.pend.isSome
  /-- R34(b) -/
  busy_clear : s.busy = true → s.done = false ∧ s.err = 0#3
  /-- R34(c) -/
  context_tables : s.ksv = true → s.tv = true
  /-- R34(d), first half -/
  context_size : s.ksv = true → (s.rounds = 10#4 ∧ s.keyWords = 4#4) ∨ (s.rounds = 14#4 ∧ s.keyWords = 8#4)
  /-- R34(d), second half -/
  no_context : s.ksv = false → s.rounds = 0#4 ∧ s.keyWords = 0#4
  /-- R34(e) -/
  tables : s.tv = true → s.sbox = genSbox.map some ∧ s.isbox = genIsbox.map some
  /-- R34(g) -/
  err_le : s.err.toNat ≤ 3
  /-- R19: the words of a valid context hold values -/
  context_words : s.ksv = true → ∀ i, i < 4 * (s.rounds.toNat + 1) → ∃ v, s.ks[i]? = some (some v)
  /-- R10, R24, R25 -/
  memory : MemoryWf s
  /-- R170 -/
  reset_held : s.rst = true → AtReset s

/-- A safe step does not fault. -/
def SafeStep (s : State) : Prop := ∀ f, step s ≠ .fault f

end Sys2Proof
end

