-- ==== Sys2Proof/Certificates/Slice0/Obligations.lean ====
section
/-!
DEFINITION. What is claimed of the machine, for the provers. Each docstring names the rule of spec/
that the statement formalises.

Where a statement speaks of tables, the tables are the functions `sboxEntry` and `isboxEntry` of rules
R104 and R105; in a state of the invariant `MachineInv` every read of `SBOX` and `ISBOX` gives them.
-/

open Sys2Proof Sys2Proof.Machine

/-! ## Commands: encoding (`30_encoding.md`) -/

/-- Words of section 7.1 of `95_test_vectors.md`, written out, and what they decode to (rule R63). -/
def Obligations.SampleWordsDecode : Prop :=
  decode 0x00000001#32 = .ok .gentab ∧
  decode 0x00000002#32 = .ok (.keyexp 0#2) ∧ decode 0x00000032#32 = .ok (.keyexp 3#2) ∧
  decode 0x00000003#32 = .ok .keyinv ∧
  decode 0x00000004#32 = .ok .encblk ∧
  decode 0x00000005#32 = .ok .decblk ∧
  decode 0x00000026#32 = .ok (.encrypt 2#2) ∧
  decode 0x00000017#32 = .ok (.decrypt 1#2) ∧
  decode 0x00000000#32 = .error .unassignedOpcode ∧
  decode 0x0000000F#32 = .error .unassignedOpcode ∧
  decode 0x00000024#32 = .error .keySizeField ∧
  decode 0x80000006#32 = .error .reservedBits

/-- Decoder and encoder agree in both directions, on every word and every command: a word decodes to a
command exactly when it is that command's word. -/
def Obligations.DecodeIsInverseOfEncode : Prop :=
  ∀ (w : Word) (i : Instr), i.wellFormed = true ∧ decode w = .ok i ↔ encode i = w

/-- Rule R63, whole: the decoder's tests in order, the 16 words that do not decode to ILLEGAL, and the
eight of them that always fail with InvalidKeySize; and the decoder is applied to `PEND` at completion. -/
def Obligations.DecoderOnEveryWord : Prop :=
  (∀ w : Word, w.extractLsb' 6 26 ≠ 0#26 → ∀ i, decode w ≠ .ok i) ∧
  (∀ w : Word, w.extractLsb' 6 26 = 0#26 →
    let opc := w.extractLsb' 0 4
    let ksz := w.extractLsb' 4 2
    if opc = 2#4 then decode w = .ok (.keyexp ksz)
    else if opc = 6#4 then decode w = .ok (.encrypt ksz)
    else if opc = 7#4 then decode w = .ok (.decrypt ksz)
    else if ksz ≠ 0#2 then ∀ i, decode w ≠ .ok i
    else if opc = 1#4 then decode w = .ok .gentab
    else if opc = 3#4 then decode w = .ok .keyinv
    else if opc = 4#4 then decode w = .ok .encblk
    else if opc = 5#4 then decode w = .ok .decblk
    else ∀ i, decode w ≠ .ok i) ∧
  (∀ w : Word, (∃ i, decode w = .ok i) ↔
    w ∈ [0x01#32, 0x02#32, 0x12#32, 0x22#32, 0x32#32, 0x03#32, 0x04#32, 0x05#32, 0x06#32, 0x16#32, 0x26#32,
      0x36#32, 0x07#32, 0x17#32, 0x27#32, 0x37#32]) ∧
  (∀ w ∈ [0x22#32, 0x32#32, 0x16#32, 0x26#32, 0x36#32, 0x17#32, 0x27#32, 0x37#32], ∀ i, decode w = .ok i →
    ∀ s, ∃ t, exec i s = .next t ∧ t.err = 1#3) ∧
  (∀ s w, s.rst = false → s.busy = true → s.pend = some w → s.port = [] →
    (∀ i, decode w = .ok i → step s = exec i s) ∧
    ((∀ i, decode w ≠ .ok i) → ∃ t, step s = .next t ∧ t.err = 2#3))

/-- The patterns of rule R64: each command is selected by its match under its mask, no two patterns
select one word, and a word that none selects is ILLEGAL. -/
def Obligations.MatchAndMaskSelectTheCommand : Prop :=
  (∀ w : Word,
    (decode w = .ok .gentab ↔ w &&& 0xFFFFFFFF#32 = 0x00000001#32) ∧
    ((∃ k, decode w = .ok (.keyexp k)) ↔ w &&& 0xFFFFFFCF#32 = 0x00000002#32) ∧
    (decode w = .ok .keyinv ↔ w &&& 0xFFFFFFFF#32 = 0x00000003#32) ∧
    (decode w = .ok .encblk ↔ w &&& 0xFFFFFFFF#32 = 0x00000004#32) ∧
    (decode w = .ok .decblk ↔ w &&& 0xFFFFFFFF#32 = 0x00000005#32) ∧
    ((∃ k, decode w = .ok (.encrypt k)) ↔ w &&& 0xFFFFFFCF#32 = 0x00000006#32) ∧
    ((∃ k, decode w = .ok (.decrypt k)) ↔ w &&& 0xFFFFFFCF#32 = 0x00000007#32) ∧
    (∀ k, decode w = .ok (.keyexp k) ∨ decode w = .ok (.encrypt k) ∨ decode w = .ok (.decrypt k) →
      k = w.extractLsb' 4 2)) ∧
  (∀ w : Word,
    let selected := [(0x00000001#32, 0xFFFFFFFF#32), (0x00000002#32, 0xFFFFFFCF#32), (0x00000003#32, 0xFFFFFFFF#32),
      (0x00000004#32, 0xFFFFFFFF#32), (0x00000005#32, 0xFFFFFFFF#32), (0x00000006#32, 0xFFFFFFCF#32),
      (0x00000007#32, 0xFFFFFFCF#32)].countP fun p => decide (w &&& p.2 = p.1)
    selected ≤ 1 ∧ (selected = 0 ↔ ∀ i, decode w ≠ .ok i))

/-! ## Reset (`70_reset_and_hazards.md` section 1) -/

/-- The reset column of rule R10, `STATUS` = 0 and the output pins 0 in the reset state. That `rst` is
released there and that no event waits are the model's choice (log entries 1 and 6). -/
def Obligations.ResetStateValues : Prop :=
  State.reset.blk = ⟨0#32, 0#32, 0#32, 0#32⟩ ∧
  State.reset.key = ⟨0#32, 0#32, 0#32, 0#32, 0#32, 0#32, 0#32, 0#32⟩ ∧
  AtReset State.reset ∧
  State.reset.rcon.length = 12 ∧ State.reset.rconAt 0 = 0x01#8 ∧
  (∀ n, n < 11 → State.reset.rconAt (n + 1) = xtime (State.reset.rconAt n)) ∧
  State.reset.status = 0#32 ∧
  State.reset.busyPin = false ∧ State.reset.donePin = false ∧ State.reset.errPin = false ∧
  State.reset.rst = false ∧ State.reset.port = []

/-- Rules R170, R171 and R33: the assertion of `rst` in any state, busy or not, gives the reset column
and abandons the pending command; while it stays asserted the state stays there, a write changes
nothing and the core does not move; the release changes the level of the pin only. -/
def Obligations.ResetStepFromAnyState : Prop :=
  (∀ s rest, s.port = .rstAssert :: rest →
    ∃ t, step s = .next t ∧ AtReset t ∧ t.rst = true ∧ t.rcon = s.rcon ∧ t.port = rest ∧
      t.status = 0#32 ∧ t.busyPin = false ∧ t.donePin = false ∧ t.errPin = false) ∧
  (∀ s t, s.rst = true → AtReset s → step s = .next t → AtReset t ∧ t.rcon = s.rcon) ∧
  (∀ s rest idx v, s.rst = true → s.port = .regWrite idx v :: rest → step s = .next { s with port := rest }) ∧
  (∀ s rest, s.rst = true → s.port = .core :: rest → step s = .next { s with port := rest }) ∧
  (∀ s, s.rst = true → s.port = [] → step s = .next s) ∧
  (∀ s rest, s.port = .rstRelease :: rest → step s = .next { s with port := rest, rst := false })

/-- The invariant holds right after reset. -/
def Obligations.InvariantAtReset : Prop := MachineInv State.reset

/-! ## The invariant of every step (`10_state.md` rules R19, R34) -/

/-- Rule R34 (a) to (g) with rules R19, R24 and R25: from every state that meets the invariant, every
step, of the host, of the core or of reset, gives a state that meets it, and `TV`, once 1, stays 1
until reset. -/
def Obligations.InvariantKeptByEveryStep : Prop :=
  ∀ s t, MachineInv s → step s = .next t → MachineInv t ∧ (s.tv = true → t.tv = true ∨ t.rst = true)

/-- From every state of the invariant no step faults, and a step is refused only for a bus transfer that
is not one aligned 32-bit word of the register space (rules R32, R34, R46). -/
def Obligations.NoFaultFromTheInvariant : Prop :=
  ∀ s, MachineInv s → SafeStep s ∧
    ∀ r, step s = .refused r → r = .unsupportedTransfer ∧
      ∃ rest offset width, transferWellFormed offset width = false ∧
        (s.port = .busRead offset width :: rest ∨ ∃ v, s.port = .busWrite offset width v :: rest)

/-! ## The port (`20_memory.md`, `10_state.md` section 8) -/

/-- Rule R30: an accepted write to `CMD` latches the word, sets `BUSY`, clears `DONE` and `ERR`, and
changes nothing else; with `BUSY` = 1 it is dropped. `rst` is released. -/
def Obligations.CommandWriteIsAccepted : Prop :=
  ∀ s rest w, s.rst = false → s.port = .regWrite 0#4 w :: rest →
    (s.busy = false →
      step s = .next { s with port := rest, pend := some w, busy := true, done := false, err := 0#3 }) ∧
    (s.busy = true → step s = .next { s with port := rest })

/-- Rule R31: a write to `BLK` or `KEY` on an idle core changes that one register, a write to 1, 2 or 3
nothing; any write while `BUSY` = 1 changes nothing; a read changes nothing (the model records the
value read, log entry 1) and returns the value of rule R41. The register a set writes is the one a get
then reads, and no other. -/
def Obligations.DataWritesChangeOneRegister : Prop :=
  (∀ s rest v, s.rst = false → s.busy = false →
    (∀ j : Fin 4, s.port = .regWrite (BitVec.ofNat 4 (4 + j.val)) v :: rest →
      step s = .next { s with port := rest, blk := s.blk.set j v }) ∧
    (∀ j : Fin 8, s.port = .regWrite (BitVec.ofNat 4 (8 + j.val)) v :: rest →
      step s = .next { s with port := rest, key := s.key.set j v }) ∧
    (∀ idx ∈ [1#4, 2#4, 3#4], s.port = .regWrite idx v :: rest → step s = .next { s with port := rest })) ∧
  (∀ s rest idx v, s.busy = true → s.port = .regWrite idx v :: rest → step s = .next { s with port := rest }) ∧
  (∀ s rest idx, s.port = .regRead idx :: rest →
    step s = .next { s with port := rest, reads := s.reads ++ [regRead idx s] }) ∧
  (∀ s : State,
    regRead 0#4 s = 0#32 ∧ regRead 1#4 s = s.status ∧ regRead 2#4 s = 0#32 ∧ regRead 3#4 s = 0#32 ∧
    (∀ j : Fin 4, regRead (BitVec.ofNat 4 (4 + j.val)) s = s.blk.get j) ∧
    (∀ j : Fin 8, regRead (BitVec.ofNat 4 (8 + j.val)) s = 0#32)) ∧
  (∀ (b : Block) (i j : Fin 4) (v : Word), (b.set j v).get i = if i = j then v else b.get i) ∧
  (∀ (k : KeyRegs) (i j : Fin 8) (v : Word), (k.set j v).get i = if i = j then v else k.get i)

/-- The fields of the status word and its reserved bits (rule R14), the output pins (rule R29), and that no
port write but one to `CMD`, and no port read, changes it. The legal values in the states of the
invariant (`ERR` at most 3, the three pairs of `ROUNDS` and `KEY_WORDS`) are rule R34 (d) and (g), which
the spec derives: they are fewer than the values the table of rule R14 allows. -/
def Obligations.StatusWordLayout : Prop :=
  (∀ s : State,
    s.status.getLsbD 0 = s.busy ∧ s.status.getLsbD 1 = s.done ∧ s.status.getLsbD 2 = s.tv ∧
    s.status.getLsbD 3 = s.ksv ∧ s.status.extractLsb' 4 3 = s.err ∧ s.status.getLsbD 7 = false ∧
    s.status.extractLsb' 8 4 = s.rounds ∧ s.status.extractLsb' 12 4 = s.keyWords ∧
    s.status.extractLsb' 16 16 = 0#16 ∧
    s.busyPin = s.busy ∧ s.donePin = s.done ∧ (s.errPin = true ↔ s.err ≠ 0#3)) ∧
  (∀ s, MachineInv s → s.err ∈ [0#3, 1#3, 2#3, 3#3] ∧
    (s.rounds, s.keyWords) ∈ [(0#4, 0#4), (10#4, 4#4), (14#4, 8#4)]) ∧
  (∀ s idx v, idx ≠ 0#4 → (regWrite idx v s).status = s.status) ∧
  (∀ s v, regWrite 1#4 v s = s) ∧
  (∀ s idx, (hostRead idx s).status = s.status)

/-- Rule R46: on a byte-addressed bus an aligned 32-bit transfer at offset `4 * idx` is the port
transaction on `idx`, and a narrower, wider or misaligned one is refused. That an aligned word at or
beyond offset 64, where there is no register, is refused too is the model's choice (log entry 7), after
row U16 of `93_implementation_defined.md`. -/
def Obligations.OnlyAlignedWordTransfersAreServed : Prop :=
  (∀ s rest (idx : RegIdx) v, s.port = .busWrite (4 * idx.toNat) 4 v :: rest →
    step s = step { s with port := .regWrite idx v :: rest }) ∧
  (∀ s rest (idx : RegIdx), s.port = .busRead (4 * idx.toNat) 4 :: rest →
    step s = step { s with port := .regRead idx :: rest }) ∧
  (∀ s rest offset width v, (width ≠ 4 ∨ offset % 4 ≠ 0 ∨ 64 ≤ offset) →
    (s.port = .busWrite offset width v :: rest ∨ s.port = .busRead offset width :: rest) →
    step s = .refused .unsupportedTransfer)

/-- Rule R50(b): with `BUSY` = 0 and `rst` released, a read of a `BLK` register that follows a write of
it returns the value written. -/
def Obligations.BlockReadReturnsTheValueWritten : Prop :=
  ∀ s rest (j : Fin 4) v, s.rst = false → s.busy = false →
    s.port = .regWrite (BitVec.ofNat 4 (4 + j.val)) v :: .regRead (BitVec.ofNat 4 (4 + j.val)) :: rest →
    ∃ t, core.run 2 s = .next t ∧ t.reads = s.reads ++ [v] ∧ t.port = rest

/-- Rule R173: while `BUSY` = 1 every write, to any index, on the port or through the bus, is dropped
without any indication. -/
def Obligations.WritesWhileBusyAreLost : Prop :=
  ∀ s rest, s.busy = true →
    (∀ idx v, s.port = .regWrite idx v :: rest → step s = .next { s with port := rest }) ∧
    (∀ (idx : RegIdx) v, s.port = .busWrite (4 * idx.toNat) 4 v :: rest → step s = .next { s with port := rest })

/-- Rule R174: between the acceptance of a command and its completion, reads return the state from
before the command; the status word then has `BUSY` = 1, `DONE` = 0, `ERR` = 0 and the other fields as
before. And while `BUSY` = 1 a write that is attempted does not change what a later read returns. -/
def Obligations.ReadsWhileBusySeeTheOldState : Prop :=
  (∀ s w, (∀ idx, idx ≠ 1#4 → regRead idx (accept w s) = regRead idx s) ∧
    regRead 1#4 (accept w s) = (regRead 1#4 s &&& 0xFFFFFF8C#32) ||| 0x00000001#32) ∧
  (∀ s, MachineInv s → s.busy = true →
    (regRead 1#4 s).extractLsb' 0 2 = 1#2 ∧ (regRead 1#4 s).extractLsb' 4 3 = 0#3) ∧
  (∀ s rest idx v idx', s.busy = true → s.port = .regWrite idx v :: .regRead idx' :: rest →
    core.run 2 s = .next { s with port := rest, reads := s.reads ++ [regRead idx' s] })

/-- Rule R12: no port read returns or depends on a key register, and no event but the core's turn makes
anything but `KEY` depend on it. -/
def Obligations.KeyRegistersDoNotLeak : Prop :=
  (∀ (s : State) (k : KeyRegs) (idx : RegIdx), regRead idx { s with key := k } = regRead idx s) ∧
  (∀ (e : Event) (s t : State) (k : KeyRegs), e ≠ .core → runEvent e s = .next t →
    ∃ k', runEvent e { s with key := k } = .next { t with key := k' })

/-- Rules R158 and R179: `DONE` and `ERR` of a completed command keep their values until the next accepted
command or reset, whatever else happens. -/
def Obligations.OutcomeHeldUntilNextCommand : Prop :=
  ∀ s t, s.busy = false → step s = .next t →
    (t.done = s.done ∧ t.err = s.err ∧ t.busy = false) ∨
    (∃ w, t.pend = some w ∧ t.busy = true ∧ t.done = false ∧ t.err = 0#3) ∨
    AtReset t

/-! ## Completion (`10_state.md` rule R32, `60_exceptions.md`) -/

/-- A step runs the decoded command: with a command word pending and `rst` released, the core's turn is
`exec` of the command the word decodes to, with nothing around it but the removal of the event that
gave the core the turn, if there was one. -/
def Obligations.StepRunsTheDecodedCommand : Prop :=
  ∀ s w i rest, s.rst = false → s.busy = true → s.pend = some w → decode w = .ok i →
    (s.port = [] → step s = exec i s) ∧
    (s.port = .core :: rest → step s = exec i { s with port := rest })

/-- Rules R151 to R154, R156 and R157: the three checks of a completion in their order. A failing
completion writes the code and the status fields and changes nothing else, in any state; without a
failing check the code is 0. -/
def Obligations.CompletionChecksInOrder : Prop :=
  ∀ s w, s.rst = false → s.busy = true → s.pend = some w → s.port = [] →
    let failed := fun (code : BitVec 3) =>
      step s = .next { s with err := code, done := true, busy := false, pend := none }
    let badKeySize := w ∈ [0x22#32, 0x32#32, 0x16#32, 0x26#32, 0x36#32, 0x17#32, 0x27#32, 0x37#32]
    let needsContext := w ∈ [0x03#32, 0x04#32, 0x05#32]
    ((∀ i, decode w ≠ .ok i) → failed 2#3) ∧
    (badKeySize → failed 1#3) ∧
    (needsContext ∧ s.ksv = false → failed 3#3) ∧
    ((∃ i, decode w = .ok i) ∧ ¬ badKeySize ∧ ¬ (needsContext ∧ s.ksv = false) →
      ∃ t, step s = .next t ∧ t.err = 0#3 ∧ t.done = true ∧ t.busy = false ∧ t.pend = none)

/-- Rule R185: every accepted command completes. From a state of the invariant with `BUSY` = 1, whatever
supported transactions the host makes, a completion comes within as many steps as there are events,
and one; the premise rules out reset and refused transfers among the events. -/
def Obligations.EveryAcceptedCommandCompletes : Prop :=
  ∀ s, MachineInv s → s.busy = true →
    (∀ e ∈ s.port, e ≠ .rstAssert ∧
      (∀ offset width, e = .busRead offset width → transferWellFormed offset width = true) ∧
      (∀ offset width v, e = .busWrite offset width v → transferWellFormed offset width = true)) →
    ∃ n t, n ≤ s.port.length + 1 ∧ core.run n s = .next t ∧ t.busy = false ∧ t.done = true ∧ t.pend = none

/-- What no command changes: the key registers, `RCON`, the pin, the events to come and the reads
recorded (rules R12, R25, R41). And which commands change what: the block only the four block
transforms, the round keys only KEYEXP, KEYINV and the composite commands, the context's fields only
KEYEXP and the composite commands (rule R10, columns "written by"). -/
def Obligations.CommandsWriteOnlyWhatTheirRulesName : Prop :=
  ∀ i s t, exec i s = .next t →
    (t.key = s.key ∧ t.rcon = s.rcon ∧ t.rst = s.rst ∧ t.port = s.port ∧ t.reads = s.reads) ∧
    (t.blk = s.blk ∨ i ∈ [Instr.encblk, .decblk, .encrypt 0#2, .decrypt 0#2]) ∧
    (t.ks = s.ks ∨ i ∈ [Instr.keyexp 0#2, .keyexp 1#2, .keyinv, .encrypt 0#2, .decrypt 0#2]) ∧
    (t.ksv = s.ksv ∧ t.rounds = s.rounds ∧ t.keyWords = s.keyWords ∨
      i ∈ [Instr.keyexp 0#2, .keyexp 1#2, .encrypt 0#2, .decrypt 0#2]) ∧
    (t.sbox = s.sbox ∧ t.isbox = s.isbox ∧ t.tv = s.tv ∨
      i ∈ [Instr.gentab, .keyexp 0#2, .keyexp 1#2, .encblk, .decblk, .encrypt 0#2, .decrypt 0#2]) ∧
    (t.done = true ∧ t.busy = false ∧ t.pend = none)

/-- Rule R32: a completion reads no value that is unspecified. In a state of the invariant the free
values, which the model applies to its counter `epoch` (log entry 2), have no influence on the state
after any command: with any other counter the same state results, the counter apart. -/
def Obligations.UnspecifiedValuesAreNeverRead : Prop :=
  ∀ i s t (e : Nat), MachineInv s → exec i s = .next t →
    ∃ e', exec i { s with epoch := e } = .next { t with epoch := e' }

/-! ## Field arithmetic and word functions (`40_gf_arith.md`) -/

/-- Rule R81: the formula of `xtime` with its corner cases and examples; as an integer, `xtime(a)` is
twice `a`, reduced by 0x11B when it passes a byte. -/
def Obligations.XtimeDoublesInTheField : Prop :=
  (∀ a : Byte, xtime a = (if a.getLsbD 7 then (a <<< 1) ^^^ 0x1B#8 else a <<< 1)) ∧
  (∀ a : Byte, (xtime a).toNat = if a.toNat < 128 then 2 * a.toNat else (2 * a.toNat) ^^^ 0x11B) ∧
  xtime 0x00#8 = 0x00#8 ∧ xtime 0x80#8 = 0x1B#8 ∧ xtime 0xFF#8 = 0xE5#8 ∧ xtime 0x8D#8 = 0x01#8 ∧
  xtime 0x57#8 = 0xAE#8 ∧ xtime 0xAE#8 = 0x47#8

/-- Rule R82: `gmul` is a commutative, associative product that distributes over XOR, with the unit 1
and the zero 0; the six constant multiples in terms of doublings; the rule's examples. -/
def Obligations.FieldProductLaws : Prop :=
  (∀ a b : Byte, gmul a b = gmul b a) ∧
  (∀ a b c : Byte, gmul (gmul a b) c = gmul a (gmul b c)) ∧
  (∀ a b c : Byte, gmul a (b ^^^ c) = gmul a b ^^^ gmul a c) ∧
  (∀ a : Byte, gmul a 1 = a ∧ gmul a 0 = 0) ∧
  (∀ a : Byte, let a2 := xtime a; let a4 := xtime a2; let a8 := xtime a4
    gmul a 2 = a2 ∧ gmul a 3 = a2 ^^^ a ∧ gmul a 9 = a8 ^^^ a ∧ gmul a 11 = a8 ^^^ a2 ^^^ a ∧
    gmul a 13 = a8 ^^^ a4 ^^^ a ∧ gmul a 14 = a8 ^^^ a4 ^^^ a2) ∧
  gmul 0x57#8 0x13#8 = 0xFE#8 ∧ gmul 0x57#8 0x83#8 = 0xC1#8 ∧ gmul 0x53#8 0xCA#8 = 0x01#8

/-- Rules R86 and R87: `RotWord` as a rotation of the word and as a permutation of its lanes; `SubWord`
lane by lane; the two commute; the rules' examples. -/
def Obligations.RotWordAndSubWordActOnLanes : Prop :=
  (∀ w : Word, rotWord w = (w <<< 8) ||| (w >>> 24)) ∧
  (∀ w : Word, rotWord w = word (lane w 1) (lane w 2) (lane w 3) (lane w 0)) ∧
  rotWord 0x0C0D0E0F#32 = 0x0D0E0F0C#32 ∧
  (∀ (w : Word) (table : Byte → Byte) (j : Fin 4), lane (subWord w table) j = table (lane w j)) ∧
  (∀ (w : Word) (table : Byte → Byte), subWord (rotWord w) table = rotWord (subWord w table)) ∧
  subWord 0x0D0E0F0C#32 sboxEntry = 0xD7AB76FE#32

/-- Rules R88 and R89: lane `j` of the two column mixings as the rules' cyclic formulas, words of four
equal lanes unchanged, and the rules' examples. -/
def Obligations.ColumnMixingMatrices : Prop :=
  (∀ (w : Word) (j : Fin 4), lane (mixWord w) j =
    gmul (lane w j) 2 ^^^ gmul (lane w (j + 1)) 3 ^^^ lane w (j + 2) ^^^ lane w (j + 3)) ∧
  (∀ (w : Word) (j : Fin 4), lane (invMixWord w) j =
    gmul (lane w j) 14 ^^^ gmul (lane w (j + 1)) 11 ^^^ gmul (lane w (j + 2)) 13 ^^^ gmul (lane w (j + 3)) 9) ∧
  (∀ b : Byte, mixWord (word b b b b) = word b b b b ∧ invMixWord (word b b b b) = word b b b b) ∧
  mixWord 0x00000000#32 = 0x00000000#32 ∧ mixWord 0x01010101#32 = 0x01010101#32 ∧
  mixWord 0xC6C6C6C6#32 = 0xC6C6C6C6#32 ∧ mixWord 0xDB135345#32 = 0x8E4DA1BC#32 ∧
  mixWord 0xF20A225C#32 = 0x9FDC589D#32 ∧ mixWord 0xD4BF5D30#32 = 0x046681E5#32 ∧
  invMixWord 0x00000000#32 = 0x00000000#32 ∧ invMixWord 0x8E4DA1BC#32 = 0xDB135345#32 ∧
  invMixWord 0x046681E5#32 = 0xD4BF5D30#32 ∧ invMixWord 0x01000000#32 = 0x0E090D0B#32 ∧
  invMixWord 0x00000001#32 = 0x090D0B0E#32

/-- Rule R90, which the spec derives from rules R88 and R89: the two column mixings are inverse to each
other and linear, and the inverse one is not its own inverse. -/
def Obligations.ColumnMixingsAreInverse : Prop :=
  (∀ w : Word, invMixWord (mixWord w) = w) ∧ (∀ w : Word, mixWord (invMixWord w) = w) ∧
  (∀ u v : Word, mixWord (u ^^^ v) = mixWord u ^^^ mixWord v) ∧
  (∀ u v : Word, invMixWord (u ^^^ v) = invMixWord u ^^^ invMixWord v) ∧
  invMixWord (invMixWord 0xD6AA74FD#32) = 0x68EDCABA#32

/-- Rule R42: the big-endian word of four bytes, the four bytes of a word, each the inverse of the
other. -/
def Obligations.BigEndianPacking : Prop :=
  (∀ b0 b1 b2 b3 : Byte, bigEndianWordOf b0 b1 b2 b3 = word b0 b1 b2 b3) ∧
  (∀ b0 b1 b2 b3 : Byte, wordToBigEndianBytes (bigEndianWordOf b0 b1 b2 b3) = [b0, b1, b2, b3]) ∧
  (∀ w : Word, wordToBigEndianBytes w = [lane w 0, lane w 1, lane w 2, lane w 3] ∧
    bigEndianWordOf (lane w 0) (lane w 1) (lane w 2) (lane w 3) = w)

/-! ## The substitution tables (`41_sbox_gen.md`) -/

/-- Rules R84 and R101 to R104: the rotation of a byte, the powers of the generator, the logarithm, the
inverse, the affine transform, and the forward table, with the rules' examples. -/
def Obligations.TableGenerationSteps : Prop :=
  (∀ (a : Byte) (k : Fin 8), rotl8 a k.val = (a <<< k.val) ||| (a >>> (8 - k.val))) ∧ rotl8 0x81#8 1 = 0x03#8 ∧
  alog 0 = 0x01#8 ∧
  (∀ i : Fin 255, alog (i.val + 1) = alog i.val ^^^ xtime (alog i.val) ∧ alog (i.val + 1) = gmul (alog i.val) 0x03#8) ∧
  (∀ i : Fin 255, log (alog i.val) = some i.val) ∧ alog 255 = 0x01#8 ∧
  [alog 0, alog 1, alog 2, alog 3, alog 4, alog 5, alog 6, alog 7] =
    [0x01#8, 0x03#8, 0x05#8, 0x0f#8, 0x11#8, 0x33#8, 0x55#8, 0xff#8] ∧
  log 0x01#8 = some 0 ∧ log 0x02#8 = some 0x19 ∧ log 0x03#8 = some 0x01 ∧
  (∀ x : Byte, x ≠ 0x00#8 → ∃ i : Fin 255, log x = some i.val ∧ inv x = alog (255 - i.val)) ∧
  (∀ x : Byte, x ≠ 0x00#8 → gmul x (inv x) = 0x01#8) ∧
  inv 0x01#8 = 0x01#8 ∧ inv 0x02#8 = 0x8D#8 ∧ inv 0x03#8 = 0xF6#8 ∧ inv 0x53#8 = 0xCA#8 ∧
  inv 0xCA#8 = 0x53#8 ∧ inv 0xFF#8 = 0x1C#8 ∧
  (∀ y : Byte, affine y = y ^^^ rotl8 y 1 ^^^ rotl8 y 2 ^^^ rotl8 y 3 ^^^ rotl8 y 4 ^^^ 0x63#8) ∧
  (∀ (y : Byte) (i : Fin 8), (affine y).getLsbD i.val =
    ((y.getLsbD i.val).xor ((y.getLsbD ((i.val + 4) % 8)).xor ((y.getLsbD ((i.val + 5) % 8)).xor
      ((y.getLsbD ((i.val + 6) % 8)).xor ((y.getLsbD ((i.val + 7) % 8)).xor ((0x63#8).getLsbD i.val))))))) ∧
  affine 0x00#8 = 0x63#8 ∧ affine 0x01#8 = 0x7C#8 ∧ affine 0x8D#8 = 0x77#8 ∧ affine 0xCA#8 = 0xED#8 ∧
  affine 0xFF#8 = 0x9C#8 ∧
  sboxEntry 0x00#8 = 0x63#8 ∧ (∀ x : Byte, x ≠ 0x00#8 → sboxEntry x = affine (inv x))

/-- Rules R105 and R107: the two tables are inverse to each other, and no byte is substituted by itself
or by its complement. -/
def Obligations.TablesAreInverse : Prop :=
  (∀ x : Byte, isboxEntry (sboxEntry x) = x) ∧ (∀ x : Byte, sboxEntry (isboxEntry x) = x) ∧
  (∀ x : Byte, sboxEntry x ≠ x ∧ sboxEntry x ≠ x ^^^ 0xFF#8)

/-- Rule R100: GENTAB completes in every state; it writes both tables and `TV`, and nothing else but the
status fields of completion; a read of either table then gives the entry of rules R104 and R105; and
with `TV` = 1 in a state of the invariant it changes the status fields only. Its word, and its example. -/
def Obligations.GentabFillsTheTables : Prop :=
  (∀ s, ∃ t, exec .gentab s = .next t ∧
    t = { s with sbox := t.sbox, isbox := t.isbox, tv := true, err := 0#3, done := true, busy := false, pend := none } ∧
    t.sbox.length = 256 ∧ t.isbox.length = 256 ∧
    ∀ x : Byte, t.sbox[x.toNat]? = some (some (sboxEntry x)) ∧ t.isbox[x.toNat]? = some (some (isboxEntry x)) ∧
      t.sboxAt x = sboxEntry x ∧ t.isboxAt x = isboxEntry x) ∧
  (∀ s, MachineInv s → s.tv = true →
    exec .gentab s = .next { s with err := 0#3, done := true, busy := false, pend := none }) ∧
  decode 0x00000001#32 = .ok .gentab ∧
  (∃ t, exec .gentab State.reset = .next t ∧ t.status = 0x00000006#32) ∧
  sboxEntry 0x00#8 = 0x63#8 ∧ sboxEntry 0x01#8 = 0x7C#8 ∧ sboxEntry 0x53#8 = 0xED#8 ∧ isboxEntry 0x63#8 = 0x00#8

/-! ## The key scheduler and the inverter (`42_key_sched.md`, `43_key_inv.md`) -/

/-- Rules R111 and R112: the round-key words of `KeyExpand`, for every table, round-constant memory, key
and key size: the length, the words of the key, and the recurrence with one round constant per boundary,
taken in order. -/
def Obligations.KeyExpandRecurrence : Prop :=
  ∀ (sbox : Byte → Byte) (rcon : Nat → Byte) (size : KeySize) (key : KeyRegs),
    let words := keyExpand sbox rcon size key
    let n := size.keyWords
    words.length = 4 * (size.rounds + 1) ∧
    (∀ i : Fin 8, i.val < n → wordAt words i.val = key.get i) ∧
    (∀ i, n ≤ i → i < 4 * (size.rounds + 1) →
      wordAt words i = wordAt words (i - n) ^^^
        (if i % n = 0 then
          rotWord (subWord (wordAt words (i - 1)) sbox) ^^^ ((rcon (i / n - 1)).setWidth 32 <<< 24)
        else if n = 8 ∧ i % n = 4 then subWord (wordAt words (i - 1)) sbox
        else wordAt words (i - 1)))

/-- Rule R110: KEYEXP with a supported selector completes in every state of the invariant. The words
`KS[0 .. 4*(rounds+1)-1]` are those of `KeyExpand` on the key registers, the words above stay as they
were, `ROUNDS`, `KEY_WORDS` and `KSV` are set, the tables are there, and nothing else changes but the
status fields of completion. With another selector it fails with InvalidKeySize. Its words, and its
example. -/
def Obligations.KeyexpMakesTheContext : Prop :=
  (∀ s ksz (size : KeySize), MachineInv s → (ksz = 0#2 ∧ size = .k128 ∨ ksz = 1#2 ∧ size = .k256) →
    ∃ t, exec (.keyexp ksz) s = .next t ∧
      (∀ i, i < 4 * (size.rounds + 1) →
        t.ks[i]? = some (some (wordAt (keyExpand sboxEntry s.rconAt size s.key) i))) ∧
      (∀ i, 4 * (size.rounds + 1) ≤ i → t.ks[i]? = s.ks[i]?) ∧
      t.rounds.toNat = size.rounds ∧ t.keyWords.toNat = size.keyWords ∧
      t = { s with
        ks := t.ks, rounds := t.rounds, keyWords := t.keyWords, ksv := true
        sbox := genSbox.map some, isbox := genIsbox.map some, tv := true
        err := 0#3, done := true, busy := false, pend := none }) ∧
  (∀ s, ∀ ksz ∈ [2#2, 3#2],
    exec (.keyexp ksz) s = .next { s with err := 1#3, done := true, busy := false, pend := none }) ∧
  (∀ ksz : BitVec 2, decode (0x00000002#32 ||| (ksz.setWidth 32 <<< 4)) = .ok (.keyexp ksz)) ∧
  (∀ s, MachineInv s → s.key.k0 = 0x00010203#32 → s.key.k1 = 0x04050607#32 → s.key.k2 = 0x08090A0B#32 →
    s.key.k3 = 0x0C0D0E0F#32 →
    ∃ t, exec (.keyexp 0#2) s = .next t ∧ t.status = 0x00004A0E#32 ∧
      [t.ksAt 4, t.ksAt 40, t.ksAt 41, t.ksAt 42, t.ksAt 43] =
        [0xD6AA74FD#32, 0x13111D7F#32, 0xE3944A17#32, 0xF307A78B#32, 0x4D2B30C5#32])

/-- Rule R113: an unsupported selector, 2 or 3, makes KEYEXP fail with InvalidKeySize, and nothing
changes but the status fields: not the context, not the tables. -/
def Obligations.KeyexpRefusesOtherSelectors : Prop :=
  ∀ s, ∀ ksz ∈ [2#2, 3#2],
    exec (.keyexp ksz) s = .next { s with err := 1#3, done := true, busy := false, pend := none }

/-- Rule R120, with the function of rule R121: KEYINV completes in every state of the invariant with a
context. Each word `KS[4 .. 4*ROUNDS-1]` becomes its `InvMixWord`, every other word stays, and nothing
else changes but the status fields of completion. Without a context it fails with NoContext. Its word,
and its example. -/
def Obligations.KeyinvMixesTheMiddleWords : Prop :=
  (∀ s, MachineInv s → s.ksv = true →
    ∃ t, exec .keyinv s = .next t ∧
      (∀ i, 4 ≤ i → i < 4 * s.rounds.toNat → t.ks[i]? = some (some (invMixWord (s.ksAt i)))) ∧
      (∀ i, i < 4 ∨ 4 * s.rounds.toNat ≤ i → t.ks[i]? = s.ks[i]?) ∧
      t = { s with ks := t.ks, err := 0#3, done := true, busy := false, pend := none }) ∧
  (∀ s, s.ksv = false →
    exec .keyinv s = .next { s with err := 3#3, done := true, busy := false, pend := none }) ∧
  decode 0x00000003#32 = .ok .keyinv ∧
  (∀ s, MachineInv s → s.key.k0 = 0x00010203#32 → s.key.k1 = 0x04050607#32 → s.key.k2 = 0x08090A0B#32 →
    s.key.k3 = 0x0C0D0E0F#32 →
    ∃ a t, exec (.keyexp 0#2) s = .next a ∧ exec .keyinv a = .next t ∧
      [a.ksAt 4, a.ksAt 39] = [0xD6AA74FD#32, 0xBE2C974E#32] ∧
      [t.ksAt 0, t.ksAt 4, t.ksAt 39, t.ksAt 40] = [0x00010203#32, 0x8C56DFF0#32, 0x00F7BF03#32, 0x13111D7F#32])

/-! ## The engines (`44_encrypt.md`, `45_decrypt.md`) -/

/-- Rules R127 and R137: lane `j` of output word `c` comes from lane `j` of input word `(c+j) mod 4` in
`SubShift` and `(c-j) mod 4` in `InvSubShift`, through the table. -/
def Obligations.ShiftedLanes : Prop :=
  (∀ (table : Byte → Byte) (s : Block) (c j : Fin 4),
    lane ((subShift table s).get c) j = table (lane (s.get (c + j)) j)) ∧
  (∀ (table : Byte → Byte) (s : Block) (c j : Fin 4),
    lane ((invSubShift table s).get c) j = table (lane (s.get (c - j)) j)) ∧
  subShift sboxEntry ⟨0x00102030#32, 0x40506070#32, 0x8090A0B0#32, 0xC0D0E0F0#32⟩ =
    ⟨0x6353E08C#32, 0x0960E104#32, 0xCD70B751#32, 0xBACAD0E7#32⟩ ∧
  subShift sboxEntry ⟨0x00010203#32, 0x04050607#32, 0x08090A0B#32, 0x0C0D0E0F#32⟩ =
    ⟨0x636B6776#32, 0xF201AB7B#32, 0x30D777C5#32, 0xFE7C6F2B#32⟩ ∧
  invSubShift isboxEntry ⟨0x7AD5FDA7#32, 0x89EF4E27#32, 0x2BCA100B#32, 0x3D9FF59F#32⟩ =
    ⟨0xBD6E7C3D#32, 0xF2B5779E#32, 0x0B61216E#32, 0x8B10B689#32⟩

/-- The inverses of rule R137, which the spec derives: `InvSubShift` undoes `SubShift` and `SubShift`
undoes `InvSubShift`. -/
def Obligations.ShiftsAreInverse : Prop :=
  (∀ s : Block, invSubShift isboxEntry (subShift sboxEntry s) = s) ∧
  (∀ s : Block, subShift sboxEntry (invSubShift isboxEntry s) = s)

/-- Rule R125: ENCBLK completes in every state of the invariant with a context. `BLK` becomes
`EncryptBlock` of itself under the words of `KS`, whichever schedule they hold, and nothing else changes
but the status fields of completion. Without a context it fails with NoContext and `BLK` is unchanged.
Its word, and its example. -/
def Obligations.EncblkEncryptsInPlace : Prop :=
  (∀ s, MachineInv s → s.ksv = true →
    exec .encblk s = .next { s with
      blk := encryptBlock sboxEntry s.ksAt s.rounds.toNat s.blk
      err := 0#3, done := true, busy := false, pend := none }) ∧
  (∀ s, s.ksv = false →
    exec .encblk s = .next { s with err := 3#3, done := true, busy := false, pend := none }) ∧
  decode 0x00000004#32 = .ok .encblk ∧
  (∀ key : KeyRegs, key.k0 = 0x00010203#32 → key.k1 = 0x04050607#32 → key.k2 = 0x08090A0B#32 →
    key.k3 = 0x0C0D0E0F#32 →
    encryptBlock sboxEntry (wordAt (keyExpand sboxEntry State.reset.rconAt .k128 key)) 10
      ⟨0x00112233#32, 0x44556677#32, 0x8899AABB#32, 0xCCDDEEFF#32⟩ =
    ⟨0x69C4E0D8#32, 0x6A7B0430#32, 0xD8CDB780#32, 0x70B4C55A#32⟩)

/-- Rule R135: DECBLK completes in every state of the invariant with a context. `BLK` becomes
`DecryptBlock` of itself under the words of `KS`, inverted or not (rule R138), and nothing else changes
but the status fields of completion. Without a context it fails with NoContext and `BLK` is unchanged.
Its word, and its example. -/
def Obligations.DecblkDecryptsInPlace : Prop :=
  (∀ s, MachineInv s → s.ksv = true →
    exec .decblk s = .next { s with
      blk := decryptBlock isboxEntry s.ksAt s.rounds.toNat s.blk
      err := 0#3, done := true, busy := false, pend := none }) ∧
  (∀ s, s.ksv = false →
    exec .decblk s = .next { s with err := 3#3, done := true, busy := false, pend := none }) ∧
  decode 0x00000005#32 = .ok .decblk ∧
  (∀ key : KeyRegs, key.k0 = 0x00010203#32 → key.k1 = 0x04050607#32 → key.k2 = 0x08090A0B#32 →
    key.k3 = 0x0C0D0E0F#32 →
    decryptBlock isboxEntry (keyInvert (wordAt (keyExpand sboxEntry State.reset.rconAt .k128 key)) 10) 10
      ⟨0x69C4E0D8#32, 0x6A7B0430#32, 0xD8CDB780#32, 0x70B4C55A#32⟩ =
    ⟨0x00112233#32, 0x44556677#32, 0x8899AABB#32, 0xCCDDEEFF#32⟩)

/-- Rule R154: without a context KEYINV, ENCBLK and DECBLK fail with NoContext, and nothing changes but
the status fields; the block is untouched and no table is generated. -/
def Obligations.NoContextFails : Prop :=
  ∀ s, s.ksv = false → ∀ i ∈ [Instr.keyinv, .encblk, .decblk],
    exec i s = .next { s with err := 3#3, done := true, busy := false, pend := none }

/-- Rule R139: for every key, both key sizes, every round-constant memory and every block, decryption
with the inverted schedule undoes encryption with the schedule. -/
def Obligations.DecryptionUndoesEncryption : Prop :=
  ∀ (rcon : Nat → Byte) (size : KeySize) (key : KeyRegs) (p : Block),
    let ks := wordAt (keyExpand sboxEntry rcon size key)
    decryptBlock isboxEntry (keyInvert ks size.rounds) size.rounds (encryptBlock sboxEntry ks size.rounds p) = p

/-- Values the spec derives: the 256-bit known answer of `95_test_vectors.md` section 5, and what the
engines give under the wrong schedule (rules R138 and R176), which they accept without an error. -/
def Obligations.DerivedAnswers : Prop :=
  let key : KeyRegs := ⟨0x00010203#32, 0x04050607#32, 0x08090A0B#32, 0x0C0D0E0F#32,
    0x10111213#32, 0x14151617#32, 0x18191A1B#32, 0x1C1D1E1F#32⟩
  let p : Block := ⟨0x00112233#32, 0x44556677#32, 0x8899AABB#32, 0xCCDDEEFF#32⟩
  let ks128 := wordAt (keyExpand sboxEntry State.reset.rconAt .k128 key)
  let ks256 := wordAt (keyExpand sboxEntry State.reset.rconAt .k256 key)
  encryptBlock sboxEntry ks256 14 p = ⟨0x8EA2B7CA#32, 0x516745BF#32, 0xEAFC4990#32, 0x4B496089#32⟩ ∧
  decryptBlock isboxEntry ks128 10 ⟨0x69C4E0D8#32, 0x6A7B0430#32, 0xD8CDB780#32, 0x70B4C55A#32⟩ =
    ⟨0xAC45B5B0#32, 0x7D71616E#32, 0xEE15D89C#32, 0xED58210A#32⟩ ∧
  encryptBlock sboxEntry (keyInvert ks128 10) 10 p = ⟨0x6F41FA9D#32, 0xEA4923AD#32, 0x4758B8A2#32, 0x33558C82#32⟩

/-! ## The public operations (`46_composite.md`) -/

/-- Rule R145: ENCRYPT with `KSZ` = 0 completes in every state of the invariant. `BLK` becomes the
ciphertext under `KEY[0..3]`, the context is destroyed and its words hold no value, the tables are there,
and nothing else changes but the status fields of completion (and the model's own counter, log
entry 2). With any other `KSZ` it fails with InvalidKeySize and nothing changes but the status fields.
Its words, and its two examples. -/
def Obligations.EncryptIsThePublicOperation : Prop :=
  (∀ s, MachineInv s → ∃ t, exec (.encrypt 0#2) s = .next t ∧
    t = { s with
      blk := encryptBlock sboxEntry (wordAt (keyExpand sboxEntry s.rconAt .k128 s.key)) 10 s.blk
      ks := List.replicate 60 none, ksv := false, rounds := 0#4, keyWords := 0#4
      sbox := genSbox.map some, isbox := genIsbox.map some, tv := true
      err := 0#3, done := true, busy := false, pend := none, epoch := t.epoch }) ∧
  (∀ s, ∀ ksz ∈ [1#2, 2#2, 3#2],
    exec (.encrypt ksz) s = .next { s with err := 1#3, done := true, busy := false, pend := none }) ∧
  (∀ ksz : BitVec 2, decode (0x00000006#32 ||| (ksz.setWidth 32 <<< 4)) = .ok (.encrypt ksz)) ∧
  (∀ s, MachineInv s → s.key.k0 = 0x00010203#32 → s.key.k1 = 0x04050607#32 →
    s.key.k2 = 0x08090A0B#32 → s.key.k3 = 0x0C0D0E0F#32 →
    s.blk = ⟨0x00112233#32, 0x44556677#32, 0x8899AABB#32, 0xCCDDEEFF#32⟩ →
    ∃ t, exec (.encrypt 0#2) s = .next t ∧ t.status = 0x00000006#32 ∧
      t.blk = ⟨0x69C4E0D8#32, 0x6A7B0430#32, 0xD8CDB780#32, 0x70B4C55A#32⟩) ∧
  (∃ t, exec (.encrypt 0#2) State.reset = .next t ∧
    t.blk = ⟨0x66E94BD4#32, 0xEF8A2C3B#32, 0x884CFA59#32, 0xCA342B2E#32⟩)

/-- Rule R146: DECRYPT, with the schedule inverted once inside the command. Its words, and its example. -/
def Obligations.DecryptIsThePublicOperation : Prop :=
  (∀ s, MachineInv s → ∃ t, exec (.decrypt 0#2) s = .next t ∧
    t = { s with
      blk := decryptBlock isboxEntry (keyInvert (wordAt (keyExpand sboxEntry s.rconAt .k128 s.key)) 10) 10 s.blk
      ks := List.replicate 60 none, ksv := false, rounds := 0#4, keyWords := 0#4
      sbox := genSbox.map some, isbox := genIsbox.map some, tv := true
      err := 0#3, done := true, busy := false, pend := none, epoch := t.epoch }) ∧
  (∀ s, ∀ ksz ∈ [1#2, 2#2, 3#2],
    exec (.decrypt ksz) s = .next { s with err := 1#3, done := true, busy := false, pend := none }) ∧
  (∀ ksz : BitVec 2, decode (0x00000007#32 ||| (ksz.setWidth 32 <<< 4)) = .ok (.decrypt ksz)) ∧
  (∀ s, MachineInv s → s.key.k0 = 0x00010203#32 → s.key.k1 = 0x04050607#32 →
    s.key.k2 = 0x08090A0B#32 → s.key.k3 = 0x0C0D0E0F#32 →
    s.blk = ⟨0x69C4E0D8#32, 0x6A7B0430#32, 0xD8CDB780#32, 0x70B4C55A#32⟩ →
    ∃ t, exec (.decrypt 0#2) s = .next t ∧
      t.blk = ⟨0x00112233#32, 0x44556677#32, 0x8899AABB#32, 0xCCDDEEFF#32⟩)

/-- Rule R147, the round trip on the machine: from every state of the invariant, the host's lines
`RUN ENCRYPT; RUN DECRYPT` restore the block and leave the machine idle without an error. -/
def Obligations.PublicRoundTrip : Prop :=
  ∀ s, MachineInv s → s.busy = false → s.rst = false → s.port = lineRun (.encrypt 0#2) ++ lineRun (.decrypt 0#2) →
    ∃ t, core.run 6 s = .next t ∧ t.blk = s.blk ∧ t.key = s.key ∧ t.busy = false ∧ t.done = true ∧ t.err = 0#3

/-- Rule R147, determinism: the block a public operation leaves depends on `KEY[0..3]` and `BLK` alone, not
on the flags, the context, the upper key registers or anything earlier. -/
def Obligations.PublicResultDependsOnKeyAndBlock : Prop :=
  ∀ s s', MachineInv s → MachineInv s' → s.blk = s'.blk →
    s.key.k0 = s'.key.k0 → s.key.k1 = s'.key.k1 → s.key.k2 = s'.key.k2 → s.key.k3 = s'.key.k3 →
    ∀ i ∈ [Instr.encrypt 0#2, .decrypt 0#2],
      ∃ t t', exec i s = .next t ∧ exec i s' = .next t' ∧ t.blk = t'.blk

/-- Rule R148: ENCRYPT has the same effect on the block as KEYEXP.128 and ENCBLK, and DECRYPT the same as
KEYEXP.128, KEYINV and DECBLK, from every state of the invariant; the unit commands keep the context and
the composite ones destroy it. -/
def Obligations.CompositeEqualsUnitCommands : Prop :=
  ∀ s, MachineInv s →
    (∃ a b t, exec (.keyexp 0#2) s = .next a ∧ exec .encblk a = .next b ∧ exec (.encrypt 0#2) s = .next t ∧
      t.blk = b.blk ∧ t.key = b.key ∧ t.err = b.err ∧ b.ksv = true ∧ t.ksv = false) ∧
    (∃ a b c t, exec (.keyexp 0#2) s = .next a ∧ exec .keyinv a = .next b ∧ exec .decblk b = .next c ∧
      exec (.decrypt 0#2) s = .next t ∧
      t.blk = c.blk ∧ t.key = c.key ∧ t.err = c.err ∧ c.ksv = true ∧ t.ksv = false)

/-- Rule R177: after a successful composite command each command that needs a context fails with
NoContext, and only a successful KEYEXP brings a context back; a failed composite command leaves the
context as it was. -/
def Obligations.CompositeDestroysTheContext : Prop :=
  (∀ s t, ∀ c ∈ [Instr.encrypt 0#2, .decrypt 0#2], exec c s = .next t →
    ∀ i ∈ [Instr.keyinv, .encblk, .decblk], ∃ u, exec i t = .next u ∧ u.err = 3#3 ∧ u.blk = t.blk) ∧
  (∀ s t, s.ksv = false → step s = .next t → t.ksv = true →
    ∃ w, s.pend = some w ∧ (decode w = .ok (.keyexp 0#2) ∨ decode w = .ok (.keyexp 1#2))) ∧
  (∀ s t, ∀ ksz ∈ [1#2, 2#2, 3#2], exec (.encrypt ksz) s = .next t ∨ exec (.decrypt ksz) s = .next t →
    t.ks = s.ks ∧ t.ksv = s.ksv ∧ t.rounds = s.rounds ∧ t.keyWords = s.keyWords ∧ t.blk = s.blk)

/-- Rule R178: a write to a key register changes no word of `KS`, and the commands that use the context
do not depend on `KEY`: with any other key they leave the same block and the same schedule. -/
def Obligations.KeyChangeNeedsACommand : Prop :=
  (∀ s (j : Fin 8) v, (regWrite (BitVec.ofNat 4 (8 + j.val)) v s).ks = s.ks) ∧
  (∀ s t (k : KeyRegs), ∀ i ∈ [Instr.keyinv, .encblk, .decblk], exec i s = .next t →
    exec i { s with key := k } = .next { t with key := k })

/-- The round-trip of rule R43: the block registers that hold 16 bytes of the wire give the bytes back. -/
def Obligations.BlockHoldsItsWireBytes : Prop :=
  (∀ b : Vector Byte 16, bytesOfBlock (blockOfBytes b) = b.toList) ∧
  blockOfBytes #v[0x00#8, 0x11#8, 0x22#8, 0x33#8, 0x44#8, 0x55#8, 0x66#8, 0x77#8,
    0x88#8, 0x99#8, 0xAA#8, 0xBB#8, 0xCC#8, 0xDD#8, 0xEE#8, 0xFF#8] =
    ⟨0x00112233#32, 0x44556677#32, 0x8899AABB#32, 0xCCDDEEFF#32⟩

/-- Rule R43: each block and key register holds the big-endian word of its four bytes of the wire, a key of
16 bytes in `KEY[0..3]`, one of 32 bytes in `KEY[0..7]`; the result bytes are those of the four block
words in order; the rule's example. And on the port, where whoever drives it converts: the host's
lines that load a block or a key leave those registers and nothing else changed, and the bytes of the
four block words read are the bytes of the block. -/
def Obligations.WireFormatOfBlockAndKey : Prop :=
  (∀ (b : Vector Byte 16) (j : Fin 4), (blockOfBytes b).get j =
    bigEndianWordOf (b[4 * j.val]'(by omega)) (b[4 * j.val + 1]'(by omega)) (b[4 * j.val + 2]'(by omega))
      (b[4 * j.val + 3]'(by omega))) ∧
  (∀ (b : Block) (j : Fin 4), ((bytesOfBlock b).drop (4 * j.val)).take 4 = wordToBigEndianBytes (b.get j)) ∧
  (∀ (b : Vector Byte 16) (k : KeyRegs) (j : Fin 4), (keyOfBytes128 b k).get (j.castLE (by decide)) =
    bigEndianWordOf (b[4 * j.val]'(by omega)) (b[4 * j.val + 1]'(by omega)) (b[4 * j.val + 2]'(by omega))
      (b[4 * j.val + 3]'(by omega))) ∧
  (∀ (b : Vector Byte 16) (k : KeyRegs) (j : Fin 8), 4 ≤ j.val → (keyOfBytes128 b k).get j = k.get j) ∧
  (∀ (b : Vector Byte 32) (j : Fin 8), (keyOfBytes256 b).get j =
    bigEndianWordOf (b[4 * j.val]'(by omega)) (b[4 * j.val + 1]'(by omega)) (b[4 * j.val + 2]'(by omega))
      (b[4 * j.val + 3]'(by omega))) ∧
  blockOfBytes #v[0x00#8, 0x11#8, 0x22#8, 0x33#8, 0x44#8, 0x55#8, 0x66#8, 0x77#8,
    0x88#8, 0x99#8, 0xAA#8, 0xBB#8, 0xCC#8, 0xDD#8, 0xEE#8, 0xFF#8] =
    ⟨0x00112233#32, 0x44556677#32, 0x8899AABB#32, 0xCCDDEEFF#32⟩ ∧
  (∀ s rest, s.rst = false → s.busy = false →
    (∀ b, s.port = lineLoadBlockBytes b ++ rest →
      core.run 4 s = .next { s with port := rest, blk := blockOfBytes b }) ∧
    (∀ b, s.port = lineLoadKey128 b ++ rest →
      core.run 4 s = .next { s with port := rest, key := keyOfBytes128 b s.key }) ∧
    (∀ b, s.port = lineLoadKey256 b ++ rest →
      core.run 8 s = .next { s with port := rest, key := keyOfBytes256 b })) ∧
  (∀ s rest, s.port = lineReadBlock ++ rest →
    ∃ values, core.run 4 s = .next { s with port := rest, reads := s.reads ++ values } ∧
      bytesOfReads values = bytesOfBlock s.blk)
end

