-- ==== Sys2Proof/Laws/Words.lean ====
section
/-!
SUPPORT. Lanes and words: a word is its four lanes, and the functions on blocks act word by word
(rules R8, R87, R91).
-/

namespace Sys2Proof.Machine

@[simp] theorem lane_word_zero (b0 b1 b2 b3 : Byte) : lane (word b0 b1 b2 b3) 0 = b0 := by
  ext i hi
  simp only [lane, word, BitVec.getElem_extractLsb', BitVec.getLsbD_append]
  simp (disch := omega) [show ¬ (24 + i < 8) by omega, show ¬ (24 + i - 8 < 8) by omega,
    show ¬ (24 + i - 8 - 8 < 8) by omega, show 24 + i - 8 - 8 - 8 = i by omega]

@[simp] theorem lane_word_one (b0 b1 b2 b3 : Byte) : lane (word b0 b1 b2 b3) 1 = b1 := by
  ext i hi
  simp only [lane, word, BitVec.getElem_extractLsb', BitVec.getLsbD_append]
  simp (disch := omega) [hi, show ¬ (16 + i < 8) by omega, show ¬ (16 + i - 8 < 8) by omega,
    show 16 + i - 8 - 8 = i by omega]

@[simp] theorem lane_word_two (b0 b1 b2 b3 : Byte) : lane (word b0 b1 b2 b3) 2 = b2 := by
  ext i hi
  simp only [lane, word, BitVec.getElem_extractLsb', BitVec.getLsbD_append]
  simp (disch := omega) [hi, show ¬ (8 + i < 8) by omega, show 8 + i - 8 = i by omega]

@[simp] theorem lane_word_three (b0 b1 b2 b3 : Byte) : lane (word b0 b1 b2 b3) 3 = b3 := by
  ext i hi
  simp only [lane, word, BitVec.getElem_extractLsb', BitVec.getLsbD_append]
  simp [hi]

/-- A bit of a word is a bit of one lane. -/
theorem getLsbD_eq_lane (w : Word) (j : Fin 4) (i : Nat) (hi : i < 8) :
    (lane w j).getLsbD i = w.getLsbD (24 - 8 * j.val + i) := by
  simp [lane, hi]

/-- Two words with the same four lanes are the same word (rule R8). -/
theorem word_ext {u v : Word} (h : ∀ j : Fin 4, lane u j = lane v j) : u = v := by
  apply BitVec.eq_of_getLsbD_eq
  intro i hi
  obtain ⟨j, k, hk, hij⟩ : ∃ (j : Fin 4) (k : Nat), k < 8 ∧ i = 24 - 8 * j.val + k :=
    ⟨⟨3 - i / 8, by omega⟩, i % 8, Nat.mod_lt _ (by decide), by simp only; omega⟩
  rw [hij, ← getLsbD_eq_lane u j k hk, ← getLsbD_eq_lane v j k hk, h j]

/-- A word is the word of its lanes. -/
@[simp] theorem word_lanes (w : Word) : word (lane w 0) (lane w 1) (lane w 2) (lane w 3) = w :=
  word_ext fun j => by fin_cases j <;> simp

/-- Lanes of an XOR are the XORs of the lanes. -/
@[simp] theorem lane_xor (u v : Word) (j : Fin 4) : lane (u ^^^ v) j = lane u j ^^^ lane v j := by
  simp only [lane]
  ext i hi
  simp

/-- The XOR of two words, lane by lane. -/
theorem word_xor (a0 a1 a2 a3 b0 b1 b2 b3 : Byte) :
    word a0 a1 a2 a3 ^^^ word b0 b1 b2 b3 = word (a0 ^^^ b0) (a1 ^^^ b1) (a2 ^^^ b2) (a3 ^^^ b3) :=
  word_ext fun j => by fin_cases j <;> simp

/-- Two words built from lanes are equal exactly when the lanes are. -/
theorem word_inj {a0 a1 a2 a3 b0 b1 b2 b3 : Byte} :
    word a0 a1 a2 a3 = word b0 b1 b2 b3 ↔ a0 = b0 ∧ a1 = b1 ∧ a2 = b2 ∧ a3 = b3 := by
  constructor
  · intro h
    refine ⟨?_, ?_, ?_, ?_⟩
    · simpa using congrArg (lane · 0) h
    · simpa using congrArg (lane · 1) h
    · simpa using congrArg (lane · 2) h
    · simpa using congrArg (lane · 3) h
  · rintro ⟨rfl, rfl, rfl, rfl⟩
    rfl

/-- Adding the same round key twice changes nothing (rule R91). -/
@[simp] theorem addRoundKey_addRoundKey (s k : Block) : addRoundKey (addRoundKey s k) k = s := by
  simp [addRoundKey]

/-- A round key is made of its four words only. -/
theorem roundKey_congr {f g : Nat → Word} {n : Nat} (h : ∀ i, 4 * n ≤ i → i < 4 * n + 4 → f i = g i) :
    roundKey f n = roundKey g n := by
  simp only [roundKey, Block.mk.injEq]
  exact ⟨h _ (by omega) (by omega), h _ (by omega) (by omega), h _ (by omega) (by omega), h _ (by omega) (by omega)⟩

end Sys2Proof.Machine
end

