-- ==== Sys2Proof/Laws/Engines.lean ====
section
/-!
SUPPORT. The engines and the scheduler: which words of a schedule an engine reads, and how long an
expanded key is (rules R24, R111, R126, R136).
-/

namespace Sys2Proof.Machine

/-- The rounds `0 .. n-1` read round keys 1 to `n` only. -/
theorem encryptRounds_congr (sbox : Byte → Byte) {f g : Nat → Word} (rounds : Nat) :
    ∀ n (b : Block), (∀ i, i < 4 * (n + 1) → f i = g i) →
      encryptRounds sbox f rounds n b = encryptRounds sbox g rounds n b := by
  intro n
  induction n with
  | zero => intros; rfl
  | succ n ih =>
    intro b h
    simp only [encryptRounds, encryptRound]
    rw [ih b fun i hi => h i (by omega), roundKey_congr (n := n + 1) fun i _ hi => h i (by omega)]

/-- `EncryptBlock` reads the words below `4 * (rounds + 1)` only (rule R24). -/
theorem encryptBlock_congr (sbox : Byte → Byte) {f g : Nat → Word} (rounds : Nat) (b : Block)
    (h : ∀ i, i < 4 * (rounds + 1) → f i = g i) :
    encryptBlock sbox f rounds b = encryptBlock sbox g rounds b := by
  simp only [encryptBlock]
  rw [encryptRounds_congr sbox rounds rounds _ h, roundKey_congr (n := 0) fun i _ hi => h i (by omega)]

theorem decryptRounds_congr (isbox : Byte → Byte) {f g : Nat → Word} (rounds : Nat)
    (h : ∀ i, i < 4 * (rounds + 1) → f i = g i) :
    ∀ n (b : Block), n ≤ rounds → decryptRounds isbox f rounds n b = decryptRounds isbox g rounds n b := by
  intro n
  induction n with
  | zero => intros; rfl
  | succ n ih =>
    intro b hn
    simp only [decryptRounds, decryptRound]
    rw [ih b (by omega), roundKey_congr (n := rounds - 1 - n) fun i _ hi => h i (by omega)]

/-- `DecryptBlock` reads the words below `4 * (rounds + 1)` only (rule R24). -/
theorem decryptBlock_congr (isbox : Byte → Byte) {f g : Nat → Word} (rounds : Nat) (b : Block)
    (h : ∀ i, i < 4 * (rounds + 1) → f i = g i) :
    decryptBlock isbox f rounds b = decryptBlock isbox g rounds b := by
  simp only [decryptBlock]
  rw [decryptRounds_congr isbox rounds h rounds _ (Nat.le_refl _),
    roundKey_congr (n := rounds) fun i _ hi => h i (by omega)]

/-- `KeyInvert` works word by word (rule R121). -/
theorem keyInvert_congr {f g : Nat → Word} (rounds : Nat) {i : Nat} (h : f i = g i) :
    keyInvert f rounds i = keyInvert g rounds i := by
  simp only [keyInvert, h]

/-- The expansion adds as many words as it is told to (rule R111). -/
theorem expandWords_length (sbox : Byte → Byte) (rcon : Nat → Byte) (keyWords : Nat) :
    ∀ n rc (ks : List Word), (expandWords sbox rcon keyWords n rc ks).length = ks.length + n := by
  intro n
  induction n with
  | zero => intros; rfl
  | succ n ih => intro rc ks; simp only [expandWords, ih, List.length_append, List.length_singleton]; omega

/-- The expansion keeps the words it starts from (rule R111). -/
theorem expandWords_prefix (sbox : Byte → Byte) (rcon : Nat → Byte) (keyWords : Nat) :
    ∀ n rc (ks : List Word), ks <+: expandWords sbox rcon keyWords n rc ks := by
  intro n
  induction n with
  | zero => intro rc ks; exact List.prefix_refl ks
  | succ n ih => intro rc ks; exact (List.prefix_append ks _).trans (ih ..)

@[simp] theorem words_length (k : KeyRegs) (size : KeySize) : (k.words size).length = size.keyWords := by
  cases size <;> rfl

/-- A 128-bit key from the wire gives the same key words whatever the upper registers hold (rule R12). -/
theorem keyOfBytes128_words (b : Vector Byte 16) (k k' : KeyRegs) :
    (keyOfBytes128 b k).words .k128 = (keyOfBytes128 b k').words .k128 := rfl

/-- An element of a sequence within its length. -/
theorem wordAt_of_lt {ws : List Word} {i : Nat} (h : i < ws.length) : wordAt ws i = ws[i] := by
  simp [wordAt, h]

/-- An element that a prefix of the sequence already has. -/
theorem wordAt_of_prefix {us ws : List Word} {i : Nat} (h : us <+: ws) (hi : i < us.length) :
    wordAt ws i = wordAt us i := by
  rw [wordAt_of_lt hi, wordAt_of_lt (hi.trans_le h.length_le), h.getElem hi]

end Sys2Proof.Machine
end

