-- ==== Sys2Proof/Laws/State.lean ====
section
/-!
SUPPORT. What each update of the state leaves in each field: one lemma per field per update, so that no
proof unfolds a record update.
-/

namespace Sys2Proof.Machine

variable (s : State)

/-! ## Acceptance of a command word (rule R30). -/

@[simp] theorem accept_blk (w : Word) : (accept w s).blk = s.blk := rfl
@[simp] theorem accept_key (w : Word) : (accept w s).key = s.key := rfl
@[simp] theorem accept_busy (w : Word) : (accept w s).busy = true := rfl
@[simp] theorem accept_done (w : Word) : (accept w s).done = false := rfl
@[simp] theorem accept_tv (w : Word) : (accept w s).tv = s.tv := rfl
@[simp] theorem accept_ksv (w : Word) : (accept w s).ksv = s.ksv := rfl
@[simp] theorem accept_err (w : Word) : (accept w s).err = 0#3 := rfl
@[simp] theorem accept_rounds (w : Word) : (accept w s).rounds = s.rounds := rfl
@[simp] theorem accept_keyWords (w : Word) : (accept w s).keyWords = s.keyWords := rfl
@[simp] theorem accept_sbox (w : Word) : (accept w s).sbox = s.sbox := rfl
@[simp] theorem accept_isbox (w : Word) : (accept w s).isbox = s.isbox := rfl
@[simp] theorem accept_ks (w : Word) : (accept w s).ks = s.ks := rfl
@[simp] theorem accept_rcon (w : Word) : (accept w s).rcon = s.rcon := rfl
@[simp] theorem accept_pend (w : Word) : (accept w s).pend = some w := rfl
@[simp] theorem accept_rst (w : Word) : (accept w s).rst = s.rst := rfl
@[simp] theorem accept_port (w : Word) : (accept w s).port = s.port := rfl
@[simp] theorem accept_reads (w : Word) : (accept w s).reads = s.reads := rfl
@[simp] theorem accept_epoch (w : Word) : (accept w s).epoch = s.epoch := rfl

/-! ## The status fields of a completion (rule R32). -/

@[simp] theorem complete_blk (code : BitVec 3) : (complete code s).blk = s.blk := rfl
@[simp] theorem complete_key (code : BitVec 3) : (complete code s).key = s.key := rfl
@[simp] theorem complete_busy (code : BitVec 3) : (complete code s).busy = false := rfl
@[simp] theorem complete_done (code : BitVec 3) : (complete code s).done = true := rfl
@[simp] theorem complete_tv (code : BitVec 3) : (complete code s).tv = s.tv := rfl
@[simp] theorem complete_ksv (code : BitVec 3) : (complete code s).ksv = s.ksv := rfl
@[simp] theorem complete_err (code : BitVec 3) : (complete code s).err = code := rfl
@[simp] theorem complete_rounds (code : BitVec 3) : (complete code s).rounds = s.rounds := rfl
@[simp] theorem complete_keyWords (code : BitVec 3) : (complete code s).keyWords = s.keyWords := rfl
@[simp] theorem complete_sbox (code : BitVec 3) : (complete code s).sbox = s.sbox := rfl
@[simp] theorem complete_isbox (code : BitVec 3) : (complete code s).isbox = s.isbox := rfl
@[simp] theorem complete_ks (code : BitVec 3) : (complete code s).ks = s.ks := rfl
@[simp] theorem complete_rcon (code : BitVec 3) : (complete code s).rcon = s.rcon := rfl
@[simp] theorem complete_pend (code : BitVec 3) : (complete code s).pend = none := rfl
@[simp] theorem complete_rst (code : BitVec 3) : (complete code s).rst = s.rst := rfl
@[simp] theorem complete_port (code : BitVec 3) : (complete code s).port = s.port := rfl
@[simp] theorem complete_reads (code : BitVec 3) : (complete code s).reads = s.reads := rfl
@[simp] theorem complete_epoch (code : BitVec 3) : (complete code s).epoch = s.epoch := rfl

/-! ## The writes of GENTAB (rule R100). -/

@[simp] theorem generateTables_blk : (generateTables s).blk = s.blk := rfl
@[simp] theorem generateTables_key : (generateTables s).key = s.key := rfl
@[simp] theorem generateTables_busy : (generateTables s).busy = s.busy := rfl
@[simp] theorem generateTables_done : (generateTables s).done = s.done := rfl
@[simp] theorem generateTables_tv : (generateTables s).tv = true := rfl
@[simp] theorem generateTables_ksv : (generateTables s).ksv = s.ksv := rfl
@[simp] theorem generateTables_err : (generateTables s).err = s.err := rfl
@[simp] theorem generateTables_rounds : (generateTables s).rounds = s.rounds := rfl
@[simp] theorem generateTables_keyWords : (generateTables s).keyWords = s.keyWords := rfl
@[simp] theorem generateTables_sbox : (generateTables s).sbox = genSbox.map some := rfl
@[simp] theorem generateTables_isbox : (generateTables s).isbox = genIsbox.map some := rfl
@[simp] theorem generateTables_ks : (generateTables s).ks = s.ks := rfl
@[simp] theorem generateTables_rcon : (generateTables s).rcon = s.rcon := rfl
@[simp] theorem generateTables_pend : (generateTables s).pend = s.pend := rfl
@[simp] theorem generateTables_rst : (generateTables s).rst = s.rst := rfl
@[simp] theorem generateTables_port : (generateTables s).port = s.port := rfl
@[simp] theorem generateTables_reads : (generateTables s).reads = s.reads := rfl
@[simp] theorem generateTables_epoch : (generateTables s).epoch = s.epoch := rfl

/-! ## The writes of KEYEXP (rule R110). -/

@[simp] theorem setContext_blk (size : KeySize) (words : List Word) : (setContext size words s).blk = s.blk := rfl
@[simp] theorem setContext_key (size : KeySize) (words : List Word) : (setContext size words s).key = s.key := rfl
@[simp] theorem setContext_busy (size : KeySize) (words : List Word) : (setContext size words s).busy = s.busy := rfl
@[simp] theorem setContext_done (size : KeySize) (words : List Word) : (setContext size words s).done = s.done := rfl
@[simp] theorem setContext_tv (size : KeySize) (words : List Word) : (setContext size words s).tv = s.tv := rfl
@[simp] theorem setContext_ksv (size : KeySize) (words : List Word) : (setContext size words s).ksv = true := rfl
@[simp] theorem setContext_err (size : KeySize) (words : List Word) : (setContext size words s).err = s.err := rfl
@[simp] theorem setContext_rounds (size : KeySize) (words : List Word) :
    (setContext size words s).rounds = BitVec.ofNat 4 size.rounds := rfl
@[simp] theorem setContext_keyWords (size : KeySize) (words : List Word) :
    (setContext size words s).keyWords = BitVec.ofNat 4 size.keyWords := rfl
@[simp] theorem setContext_sbox (size : KeySize) (words : List Word) : (setContext size words s).sbox = s.sbox := rfl
@[simp] theorem setContext_isbox (size : KeySize) (words : List Word) :
    (setContext size words s).isbox = s.isbox := rfl
@[simp] theorem setContext_ks (size : KeySize) (words : List Word) :
    (setContext size words s).ks = writeEntries 0 (4 * (size.rounds + 1)) (wordAt words) s.ks := rfl
@[simp] theorem setContext_rcon (size : KeySize) (words : List Word) : (setContext size words s).rcon = s.rcon := rfl
@[simp] theorem setContext_pend (size : KeySize) (words : List Word) : (setContext size words s).pend = s.pend := rfl
@[simp] theorem setContext_rst (size : KeySize) (words : List Word) : (setContext size words s).rst = s.rst := rfl
@[simp] theorem setContext_port (size : KeySize) (words : List Word) : (setContext size words s).port = s.port := rfl
@[simp] theorem setContext_reads (size : KeySize) (words : List Word) :
    (setContext size words s).reads = s.reads := rfl
@[simp] theorem setContext_epoch (size : KeySize) (words : List Word) :
    (setContext size words s).epoch = s.epoch := rfl

/-! ## The writes of KEYINV (rule R120). -/

@[simp] theorem invertSchedule_blk : (invertSchedule s).blk = s.blk := rfl
@[simp] theorem invertSchedule_key : (invertSchedule s).key = s.key := rfl
@[simp] theorem invertSchedule_busy : (invertSchedule s).busy = s.busy := rfl
@[simp] theorem invertSchedule_done : (invertSchedule s).done = s.done := rfl
@[simp] theorem invertSchedule_tv : (invertSchedule s).tv = s.tv := rfl
@[simp] theorem invertSchedule_ksv : (invertSchedule s).ksv = s.ksv := rfl
@[simp] theorem invertSchedule_err : (invertSchedule s).err = s.err := rfl
@[simp] theorem invertSchedule_rounds : (invertSchedule s).rounds = s.rounds := rfl
@[simp] theorem invertSchedule_keyWords : (invertSchedule s).keyWords = s.keyWords := rfl
@[simp] theorem invertSchedule_sbox : (invertSchedule s).sbox = s.sbox := rfl
@[simp] theorem invertSchedule_isbox : (invertSchedule s).isbox = s.isbox := rfl
@[simp] theorem invertSchedule_ks :
    (invertSchedule s).ks = writeEntries 4 (4 * s.rounds.toNat) (keyInvert s.ksAt s.rounds.toNat) s.ks := rfl
@[simp] theorem invertSchedule_rcon : (invertSchedule s).rcon = s.rcon := rfl
@[simp] theorem invertSchedule_pend : (invertSchedule s).pend = s.pend := rfl
@[simp] theorem invertSchedule_rst : (invertSchedule s).rst = s.rst := rfl
@[simp] theorem invertSchedule_port : (invertSchedule s).port = s.port := rfl
@[simp] theorem invertSchedule_reads : (invertSchedule s).reads = s.reads := rfl
@[simp] theorem invertSchedule_epoch : (invertSchedule s).epoch = s.epoch := rfl

/-! ## The end of a context (rule R145). -/

@[simp] theorem destroyContext_blk : (destroyContext s).blk = s.blk := rfl
@[simp] theorem destroyContext_key : (destroyContext s).key = s.key := rfl
@[simp] theorem destroyContext_busy : (destroyContext s).busy = s.busy := rfl
@[simp] theorem destroyContext_done : (destroyContext s).done = s.done := rfl
@[simp] theorem destroyContext_tv : (destroyContext s).tv = s.tv := rfl
@[simp] theorem destroyContext_ksv : (destroyContext s).ksv = false := rfl
@[simp] theorem destroyContext_err : (destroyContext s).err = s.err := rfl
@[simp] theorem destroyContext_rounds : (destroyContext s).rounds = 0#4 := rfl
@[simp] theorem destroyContext_keyWords : (destroyContext s).keyWords = 0#4 := rfl
@[simp] theorem destroyContext_sbox : (destroyContext s).sbox = s.sbox := rfl
@[simp] theorem destroyContext_isbox : (destroyContext s).isbox = s.isbox := rfl
@[simp] theorem destroyContext_ks : (destroyContext s).ks = List.replicate 60 none := rfl
@[simp] theorem destroyContext_rcon : (destroyContext s).rcon = s.rcon := rfl
@[simp] theorem destroyContext_pend : (destroyContext s).pend = s.pend := rfl
@[simp] theorem destroyContext_rst : (destroyContext s).rst = s.rst := rfl
@[simp] theorem destroyContext_port : (destroyContext s).port = s.port := rfl
@[simp] theorem destroyContext_reads : (destroyContext s).reads = s.reads := rfl
@[simp] theorem destroyContext_epoch : (destroyContext s).epoch = s.epoch + 1 := rfl

/-! ## A read recorded for the host (rule R41). -/

@[simp] theorem hostRead_blk (idx : RegIdx) : (hostRead idx s).blk = s.blk := rfl
@[simp] theorem hostRead_key (idx : RegIdx) : (hostRead idx s).key = s.key := rfl
@[simp] theorem hostRead_busy (idx : RegIdx) : (hostRead idx s).busy = s.busy := rfl
@[simp] theorem hostRead_done (idx : RegIdx) : (hostRead idx s).done = s.done := rfl
@[simp] theorem hostRead_tv (idx : RegIdx) : (hostRead idx s).tv = s.tv := rfl
@[simp] theorem hostRead_ksv (idx : RegIdx) : (hostRead idx s).ksv = s.ksv := rfl
@[simp] theorem hostRead_err (idx : RegIdx) : (hostRead idx s).err = s.err := rfl
@[simp] theorem hostRead_rounds (idx : RegIdx) : (hostRead idx s).rounds = s.rounds := rfl
@[simp] theorem hostRead_keyWords (idx : RegIdx) : (hostRead idx s).keyWords = s.keyWords := rfl
@[simp] theorem hostRead_sbox (idx : RegIdx) : (hostRead idx s).sbox = s.sbox := rfl
@[simp] theorem hostRead_isbox (idx : RegIdx) : (hostRead idx s).isbox = s.isbox := rfl
@[simp] theorem hostRead_ks (idx : RegIdx) : (hostRead idx s).ks = s.ks := rfl
@[simp] theorem hostRead_rcon (idx : RegIdx) : (hostRead idx s).rcon = s.rcon := rfl
@[simp] theorem hostRead_pend (idx : RegIdx) : (hostRead idx s).pend = s.pend := rfl
@[simp] theorem hostRead_rst (idx : RegIdx) : (hostRead idx s).rst = s.rst := rfl
@[simp] theorem hostRead_port (idx : RegIdx) : (hostRead idx s).port = s.port := rfl
@[simp] theorem hostRead_reads (idx : RegIdx) : (hostRead idx s).reads = s.reads ++ [regRead idx s] := rfl
@[simp] theorem hostRead_epoch (idx : RegIdx) : (hostRead idx s).epoch = s.epoch := rfl

/-! ## The assertion of `rst` (rule R170). -/

@[simp] theorem assertReset_blk : (assertReset s).blk = State.reset.blk := rfl
@[simp] theorem assertReset_key : (assertReset s).key = State.reset.key := rfl
@[simp] theorem assertReset_busy : (assertReset s).busy = State.reset.busy := rfl
@[simp] theorem assertReset_done : (assertReset s).done = State.reset.done := rfl
@[simp] theorem assertReset_tv : (assertReset s).tv = State.reset.tv := rfl
@[simp] theorem assertReset_ksv : (assertReset s).ksv = State.reset.ksv := rfl
@[simp] theorem assertReset_err : (assertReset s).err = State.reset.err := rfl
@[simp] theorem assertReset_rounds : (assertReset s).rounds = State.reset.rounds := rfl
@[simp] theorem assertReset_keyWords : (assertReset s).keyWords = State.reset.keyWords := rfl
@[simp] theorem assertReset_sbox : (assertReset s).sbox = State.reset.sbox := rfl
@[simp] theorem assertReset_isbox : (assertReset s).isbox = State.reset.isbox := rfl
@[simp] theorem assertReset_ks : (assertReset s).ks = State.reset.ks := rfl
@[simp] theorem assertReset_rcon : (assertReset s).rcon = s.rcon := rfl
@[simp] theorem assertReset_pend : (assertReset s).pend = State.reset.pend := rfl
@[simp] theorem assertReset_rst : (assertReset s).rst = true := rfl
@[simp] theorem assertReset_port : (assertReset s).port = s.port := rfl
@[simp] theorem assertReset_reads : (assertReset s).reads = s.reads := rfl
@[simp] theorem assertReset_epoch : (assertReset s).epoch = s.epoch + 1 := rfl

/-! ## The release of `rst` (rule R170). -/

@[simp] theorem releaseReset_blk : (releaseReset s).blk = s.blk := rfl
@[simp] theorem releaseReset_key : (releaseReset s).key = s.key := rfl
@[simp] theorem releaseReset_busy : (releaseReset s).busy = s.busy := rfl
@[simp] theorem releaseReset_done : (releaseReset s).done = s.done := rfl
@[simp] theorem releaseReset_tv : (releaseReset s).tv = s.tv := rfl
@[simp] theorem releaseReset_ksv : (releaseReset s).ksv = s.ksv := rfl
@[simp] theorem releaseReset_err : (releaseReset s).err = s.err := rfl
@[simp] theorem releaseReset_rounds : (releaseReset s).rounds = s.rounds := rfl
@[simp] theorem releaseReset_keyWords : (releaseReset s).keyWords = s.keyWords := rfl
@[simp] theorem releaseReset_sbox : (releaseReset s).sbox = s.sbox := rfl
@[simp] theorem releaseReset_isbox : (releaseReset s).isbox = s.isbox := rfl
@[simp] theorem releaseReset_ks : (releaseReset s).ks = s.ks := rfl
@[simp] theorem releaseReset_rcon : (releaseReset s).rcon = s.rcon := rfl
@[simp] theorem releaseReset_pend : (releaseReset s).pend = s.pend := rfl
@[simp] theorem releaseReset_rst : (releaseReset s).rst = false := rfl
@[simp] theorem releaseReset_port : (releaseReset s).port = s.port := rfl
@[simp] theorem releaseReset_reads : (releaseReset s).reads = s.reads := rfl
@[simp] theorem releaseReset_epoch : (releaseReset s).epoch = s.epoch := rfl

/-! ## The placing of a command (log entry 4). -/

@[simp] theorem latchCommand_blk (w : Word) : (latchCommand w s).blk = s.blk := rfl
@[simp] theorem latchCommand_key (w : Word) : (latchCommand w s).key = s.key := rfl
@[simp] theorem latchCommand_busy (w : Word) : (latchCommand w s).busy = true := rfl
@[simp] theorem latchCommand_done (w : Word) : (latchCommand w s).done = false := rfl
@[simp] theorem latchCommand_tv (w : Word) : (latchCommand w s).tv = s.tv := rfl
@[simp] theorem latchCommand_ksv (w : Word) : (latchCommand w s).ksv = s.ksv := rfl
@[simp] theorem latchCommand_err (w : Word) : (latchCommand w s).err = 0#3 := rfl
@[simp] theorem latchCommand_rounds (w : Word) : (latchCommand w s).rounds = s.rounds := rfl
@[simp] theorem latchCommand_keyWords (w : Word) : (latchCommand w s).keyWords = s.keyWords := rfl
@[simp] theorem latchCommand_sbox (w : Word) : (latchCommand w s).sbox = s.sbox := rfl
@[simp] theorem latchCommand_isbox (w : Word) : (latchCommand w s).isbox = s.isbox := rfl
@[simp] theorem latchCommand_ks (w : Word) : (latchCommand w s).ks = s.ks := rfl
@[simp] theorem latchCommand_rcon (w : Word) : (latchCommand w s).rcon = s.rcon := rfl
@[simp] theorem latchCommand_pend (w : Word) : (latchCommand w s).pend = some w := rfl
@[simp] theorem latchCommand_rst (w : Word) : (latchCommand w s).rst = false := rfl
@[simp] theorem latchCommand_port (w : Word) : (latchCommand w s).port = [] := rfl
@[simp] theorem latchCommand_reads (w : Word) : (latchCommand w s).reads = s.reads := rfl
@[simp] theorem latchCommand_epoch (w : Word) : (latchCommand w s).epoch = s.epoch := rfl

/-! ## The reset state (rule R10) -/

@[simp] theorem reset_busy : State.reset.busy = false := rfl
@[simp] theorem reset_done : State.reset.done = false := rfl
@[simp] theorem reset_tv : State.reset.tv = false := rfl
@[simp] theorem reset_ksv : State.reset.ksv = false := rfl
@[simp] theorem reset_err : State.reset.err = 0#3 := rfl
@[simp] theorem reset_rounds : State.reset.rounds = 0#4 := rfl
@[simp] theorem reset_keyWords : State.reset.keyWords = 0#4 := rfl
@[simp] theorem reset_pend : State.reset.pend = none := rfl
@[simp] theorem reset_rst : State.reset.rst = false := rfl
@[simp] theorem reset_port : State.reset.port = [] := rfl
@[simp] theorem reset_reads : State.reset.reads = [] := rfl

/-! ## `EnsureTables` (rule R106): every field but the tables and `TV` is unchanged -/

@[simp] theorem ensureTables_blk : (ensureTables s).blk = s.blk := by unfold ensureTables; split <;> rfl
@[simp] theorem ensureTables_key : (ensureTables s).key = s.key := by unfold ensureTables; split <;> rfl
@[simp] theorem ensureTables_busy : (ensureTables s).busy = s.busy := by unfold ensureTables; split <;> rfl
@[simp] theorem ensureTables_done : (ensureTables s).done = s.done := by unfold ensureTables; split <;> rfl
@[simp] theorem ensureTables_ksv : (ensureTables s).ksv = s.ksv := by unfold ensureTables; split <;> rfl
@[simp] theorem ensureTables_err : (ensureTables s).err = s.err := by unfold ensureTables; split <;> rfl
@[simp] theorem ensureTables_rounds : (ensureTables s).rounds = s.rounds := by unfold ensureTables; split <;> rfl
@[simp] theorem ensureTables_keyWords : (ensureTables s).keyWords = s.keyWords := by unfold ensureTables; split <;> rfl
@[simp] theorem ensureTables_ks : (ensureTables s).ks = s.ks := by unfold ensureTables; split <;> rfl
@[simp] theorem ensureTables_rcon : (ensureTables s).rcon = s.rcon := by unfold ensureTables; split <;> rfl
@[simp] theorem ensureTables_pend : (ensureTables s).pend = s.pend := by unfold ensureTables; split <;> rfl
@[simp] theorem ensureTables_rst : (ensureTables s).rst = s.rst := by unfold ensureTables; split <;> rfl
@[simp] theorem ensureTables_port : (ensureTables s).port = s.port := by unfold ensureTables; split <;> rfl
@[simp] theorem ensureTables_reads : (ensureTables s).reads = s.reads := by unfold ensureTables; split <;> rfl
@[simp] theorem ensureTables_epoch : (ensureTables s).epoch = s.epoch := by unfold ensureTables; split <;> rfl
@[simp] theorem ensureTables_tv : (ensureTables s).tv = true := by unfold ensureTables; split <;> simp_all

/-! ## The ends of a command are completions (rules R32, R153, R157) -/

@[simp] theorem succeed_eq : succeed s = complete 0#3 s := rfl
@[simp] theorem fail_eq (e : CmdError) : fail e s = complete e.code s := rfl
@[simp] theorem illegalCommand_eq : illegalCommand s = complete 2#3 s := rfl

end Sys2Proof.Machine
end

