-- ==== Sys2Proof/Laws/Memory.lean ====
section
/-!
SUPPORT. The internal memories: a read after a write gives the value written, a write leaves every other
entry alone, and every operation keeps the memories' sizes and the constant of `RCON` (`MemoryWf`).
-/

namespace Sys2Proof.Machine

variable {α : Type}

/-! ## Writing and reading entries -/

theorem writeEntriesFrom_length (lo hi : Nat) (f : Nat → α) (at_ : Nat) (m : List (Option α)) :
    (writeEntriesFrom lo hi f at_ m).length = m.length := by
  induction m generalizing at_ with
  | nil => rfl
  | cons e rest ih => simp [writeEntriesFrom, ih]

@[simp] theorem writeEntries_length (lo hi : Nat) (f : Nat → α) (m : List (Option α)) :
    (writeEntries lo hi f m).length = m.length := writeEntriesFrom_length ..

theorem writeEntriesFrom_getElem? (lo hi : Nat) (f : Nat → α) (at_ i : Nat) (m : List (Option α)) :
    (writeEntriesFrom lo hi f at_ m)[i]? =
      if lo ≤ at_ + i ∧ at_ + i < hi then m[i]?.map fun _ => some (f (at_ + i)) else m[i]? := by
  induction m generalizing at_ i with
  | nil => simp [writeEntriesFrom]
  | cons e rest ih =>
    cases i with
    | zero => simp only [writeEntriesFrom, List.getElem?_cons_zero, Nat.add_zero]; split <;> simp
    | succ i => simp [writeEntriesFrom, ih, Nat.add_assoc, Nat.add_comm 1 i]

/-- What a write leaves at every index: the new value inside the range, the old entry outside. -/
theorem writeEntries_getElem? (lo hi : Nat) (f : Nat → α) (m : List (Option α)) (i : Nat) :
    (writeEntries lo hi f m)[i]? = if lo ≤ i ∧ i < hi then m[i]?.map fun _ => some (f i) else m[i]? := by
  simpa [writeEntries] using writeEntriesFrom_getElem? lo hi f 0 i m

theorem writeEntries_inside {lo hi : Nat} {f : Nat → α} {m : List (Option α)} {i : Nat}
    (h : lo ≤ i ∧ i < hi) (hm : i < m.length) : (writeEntries lo hi f m)[i]? = some (some (f i)) := by
  rw [writeEntries_getElem?, if_pos h, List.getElem?_eq_getElem hm]; rfl

theorem writeEntries_outside {lo hi : Nat} {f : Nat → α} {m : List (Option α)} {i : Nat}
    (h : ¬(lo ≤ i ∧ i < hi)) : (writeEntries lo hi f m)[i]? = m[i]? := by
  simp only [writeEntries_getElem?, h, if_false]

/-- A write of values that are equal inside the range is the same write. -/
theorem writeEntries_congr {lo hi : Nat} {f g : Nat → α} (m : List (Option α))
    (h : ∀ i, lo ≤ i → i < hi → f i = g i) : writeEntries lo hi f m = writeEntries lo hi g m := by
  apply List.ext_getElem?
  intro i
  simp only [writeEntries_getElem?]
  split
  · rename_i hi'; rw [h i hi'.1 hi'.2]
  · rfl

/-- An entry that holds a value reads as it, whatever the free value is. -/
@[simp] theorem readEntry_some (free : Nat → α) {m : List (Option α)} {i : Nat} {v : α}
    (h : m[i]? = some (some v)) : readEntry free m i = v := by
  simp [readEntry, h]

/-- A read inside the range just written gives the value written. -/
theorem readEntry_writeEntries {lo hi : Nat} {f : Nat → α} {m : List (Option α)} {i : Nat} (free : Nat → α)
    (h : lo ≤ i ∧ i < hi) (hm : i < m.length) : readEntry free (writeEntries lo hi f m) i = f i :=
  readEntry_some free (writeEntries_inside h hm)

/-- A read outside the range written gives what it gave before. -/
theorem readEntry_writeEntries_outside {lo hi : Nat} {f : Nat → α} {m : List (Option α)} {i : Nat} (free : Nat → α)
    (h : ¬(lo ≤ i ∧ i < hi)) : readEntry free (writeEntries lo hi f m) i = readEntry free m i := by
  simp only [readEntry, writeEntries_outside h]

/-! ## The tables -/

@[simp] theorem allBytes_length : allBytes.length = 256 := by simp [allBytes]

@[simp] theorem genSbox_length : genSbox.length = 256 := by simp [genSbox]

@[simp] theorem genIsbox_length : genIsbox.length = 256 := by simp [genIsbox]

theorem allBytes_getElem? (x : Byte) : allBytes[x.toNat]? = some x := by
  simp [allBytes, x.isLt]

/-- Entry `x` of the generated forward table (rule R104). -/
theorem genSbox_getElem? (x : Byte) : (genSbox.map some)[x.toNat]? = some (some (sboxEntry x)) := by
  simp [genSbox, allBytes_getElem?]

/-- Entry `x` of the generated inverse table (rule R105). -/
theorem genIsbox_getElem? (x : Byte) : (genIsbox.map some)[x.toNat]? = some (some (isboxEntry x)) := by
  simp [genIsbox, allBytes_getElem?]

/-- A machine that holds the generated tables reads the forward table's entries. -/
theorem sboxAt_of_tables {s : State} (h : s.sbox = genSbox.map some) : s.sboxAt = sboxEntry := by
  funext x
  exact readEntry_some _ (h ▸ genSbox_getElem? x)

/-- A machine that holds the generated tables reads the inverse table's entries. -/
theorem isboxAt_of_tables {s : State} (h : s.isbox = genIsbox.map some) : s.isboxAt = isboxEntry := by
  funext x
  exact readEntry_some _ (h ▸ genIsbox_getElem? x)

/-- What `EnsureTables` leaves in the tables when `TV` says what they hold (rules R106, R34(e)). -/
theorem ensureTables_tables {s : State}
    (h : s.tv = true → s.sbox = genSbox.map some ∧ s.isbox = genIsbox.map some) :
    (ensureTables s).sbox = genSbox.map some ∧ (ensureTables s).isbox = genIsbox.map some := by
  unfold ensureTables
  split
  · exact h ‹_›
  · exact ⟨rfl, rfl⟩

/-- `EnsureTables` as one record update, when `TV` says what the tables hold. -/
theorem ensureTables_eq {s : State}
    (h : s.tv = true → s.sbox = genSbox.map some ∧ s.isbox = genIsbox.map some) :
    ensureTables s = { s with sbox := genSbox.map some, isbox := genIsbox.map some, tv := true } := by
  unfold ensureTables
  split
  · rename_i htv
    obtain ⟨h1, h2⟩ := h htv
    rw [← h1, ← h2, ← htv]
  · rfl

end Sys2Proof.Machine

/-! ## Every operation keeps the memories' form -/

namespace Sys2Proof

open Machine

theorem reset_memoryWf : MemoryWf State.reset :=
  ⟨List.length_replicate, List.length_replicate, List.length_replicate, rfl⟩

/-- The form depends on the four memories only. -/
theorem MemoryWf.of_eq {s t : State} (h : MemoryWf s) (h1 : t.sbox = s.sbox) (h2 : t.isbox = s.isbox)
    (h3 : t.ks = s.ks) (h4 : t.rcon = s.rcon) : MemoryWf t :=
  ⟨h1 ▸ h.sbox_length, h2 ▸ h.isbox_length, h3 ▸ h.ks_length, h4 ▸ h.rcon_constant⟩

theorem generateTables_memoryWf {s : State} (h : MemoryWf s) : MemoryWf (generateTables s) :=
  ⟨by simp, by simp, h.ks_length, h.rcon_constant⟩

theorem ensureTables_memoryWf {s : State} (h : MemoryWf s) : MemoryWf (ensureTables s) := by
  unfold ensureTables
  split
  · exact h
  · exact generateTables_memoryWf h

theorem setContext_memoryWf {s : State} (size : KeySize) (words : List Word) (h : MemoryWf s) :
    MemoryWf (setContext size words s) :=
  ⟨h.sbox_length, h.isbox_length, by simp [h.ks_length], h.rcon_constant⟩

theorem invertSchedule_memoryWf {s : State} (h : MemoryWf s) : MemoryWf (invertSchedule s) :=
  ⟨h.sbox_length, h.isbox_length, by simp [h.ks_length], h.rcon_constant⟩

theorem destroyContext_memoryWf {s : State} (h : MemoryWf s) : MemoryWf (destroyContext s) :=
  ⟨h.sbox_length, h.isbox_length, by simp, h.rcon_constant⟩

theorem assertReset_memoryWf {s : State} (h : MemoryWf s) : MemoryWf (assertReset s) :=
  ⟨reset_memoryWf.sbox_length, reset_memoryWf.isbox_length, reset_memoryWf.ks_length, h.rcon_constant⟩

end Sys2Proof
end

