-- ==== Sys2Proof/Laws/Exec.lean ====
section
/-!
SUPPORT. What a command does, said once: every command completes, and the state it leaves is the one
`afterCommand` names; what the tables and the schedule are in a state of the invariant.
-/

namespace Sys2Proof.Machine

/-- The state a command's rule leaves: after its checks, its writes and the status fields (rule R32). -/
def afterCommand (i : Instr) (s : State) : State :=
  match i with
  | .gentab => complete 0#3 (generateTables s)
  | .keyexp ksz =>
    match selectKeySize ksz with
    | none => complete 1#3 s
    | some size => complete 0#3 (expandKey size s)
  | .keyinv => if s.ksv then complete 0#3 (invertSchedule s) else complete 3#3 s
  | .encblk => if s.ksv then complete 0#3 (encryptInPlace s) else complete 3#3 s
  | .decblk => if s.ksv then complete 0#3 (decryptInPlace s) else complete 3#3 s
  | .encrypt ksz => if ksz = 0#2 then complete 0#3 (encryptPublic s) else complete 1#3 s
  | .decrypt ksz => if ksz = 0#2 then complete 0#3 (decryptPublic s) else complete 1#3 s

/-- Every command completes, in every state (rules R32, R150). -/
theorem exec_eq (i : Instr) (s : State) : exec i s = .next (afterCommand i s) := by
  cases i with
  | gentab => rfl
  | keyexp ksz => simp only [exec, execKeyexp, afterCommand]; cases selectKeySize ksz <;> rfl
  | keyinv => simp only [exec, execKeyinv, afterCommand]; split <;> rfl
  | encblk => simp only [exec, execEncblk, afterCommand]; split <;> rfl
  | decblk => simp only [exec, execDecblk, afterCommand]; split <;> rfl
  | encrypt ksz => simp only [exec, execEncrypt, afterCommand]; split <;> rfl
  | decrypt ksz => simp only [exec, execDecrypt, afterCommand]; split <;> rfl

/-- The next state of a command is the one state it has. -/
theorem exec_next_iff {i : Instr} {s t : State} : exec i s = .next t ↔ t = afterCommand i s := by
  rw [exec_eq, Host.Outcome.next.injEq, eq_comm]

theorem selectKeySize_cases (ksz : BitVec 2) :
    (ksz = 0#2 ∧ selectKeySize ksz = some .k128) ∨ (ksz = 1#2 ∧ selectKeySize ksz = some .k256) ∨
      (ksz ∈ [2#2, 3#2] ∧ selectKeySize ksz = none) := by
  revert ksz; decide

/-! ## Reads in a state of the invariant -/

/-- With the tables generated, each table reads as the function of rule R104 or R105. -/
theorem tables_of_inv {s : State} (h : MachineInv s) :
    (ensureTables s).sboxAt = sboxEntry ∧ (ensureTables s).isboxAt = isboxEntry :=
  ⟨sboxAt_of_tables (ensureTables_tables h.tables).1, isboxAt_of_tables (ensureTables_tables h.tables).2⟩

/-- `EnsureTables` changes no word of `KS` and no round constant. -/
@[simp] theorem ensureTables_ksAt (s : State) : (ensureTables s).ksAt = s.ksAt := by
  funext i; simp [State.ksAt]

@[simp] theorem ensureTables_rconAt (s : State) : (ensureTables s).rconAt = s.rconAt := by
  funext i; simp [State.rconAt]

/-- With a valid context `EnsureTables` has no effect (rule R106). -/
theorem ensureTables_of_context {s : State} (h : MachineInv s) (hk : s.ksv = true) : ensureTables s = s := by
  simp [ensureTables, h.context_tables hk]

/-- A completion keeps what it does not write. -/
@[simp] theorem complete_ksAt (code : BitVec 3) (s : State) : (complete code s).ksAt = s.ksAt := rfl

end Sys2Proof.Machine
end

