-- ==== Sys2Proof/Laws/PerInstr.lean ====
section
/-!
SUPPORT. Facts about every command as syntax, one lemma per constructor.
-/

namespace Sys2Proof.Laws.EncodingFits

/-- The word of a command fits the format of rule R60: it is well formed, its reserved bits are 0, and its
operation code is one of the seven assigned ones. -/
def Statement (i : Instr) : Prop :=
  i.wellFormed = true ∧ rsvField (encode i) = 0#26 ∧
    opcField (encode i) ∈ [1#4, 2#4, 3#4, 4#4, 5#4, 6#4, 7#4]

theorem gentab : Statement .gentab := by unfold Statement; decide

theorem keyexp (ksz : BitVec 2) : Statement (.keyexp ksz) := by unfold Statement; revert ksz; decide

theorem keyinv : Statement .keyinv := by unfold Statement; decide

theorem encblk : Statement .encblk := by unfold Statement; decide

theorem decblk : Statement .decblk := by unfold Statement; decide

theorem encrypt (ksz : BitVec 2) : Statement (.encrypt ksz) := by unfold Statement; revert ksz; decide

theorem decrypt (ksz : BitVec 2) : Statement (.decrypt ksz) := by unfold Statement; revert ksz; decide

end Sys2Proof.Laws.EncodingFits
end

