-- ==== Sys2Proof/Laws/Step.lean ====
section
/-!
SUPPORT. What a step does, said once (rules R5, R30 to R33, R46, R50).
-/

namespace Sys2Proof.Machine

/-- The core's turn: idle, a completion, or the fault of log entry 5. -/
theorem coreTurn_cases (s : State) :
    ((s.rst = true ∨ s.busy = false) ∧ coreTurn s = .next s) ∨
    (s.rst = false ∧ s.busy = true ∧ ∃ w, s.pend = some w ∧
      ((∃ i, decode w = .ok i ∧ coreTurn s = .next (afterCommand i s)) ∨
        ((∀ i, decode w ≠ .ok i) ∧ coreTurn s = .next (complete 2#3 s)))) ∨
    (s.busy = true ∧ s.pend = none ∧ coreTurn s = .fault .busyWithoutCommand) := by
  cases hr : s.rst <;> cases hb : s.busy <;> simp [coreTurn, hr, hb]
  cases hp : s.pend with
  | none => simp
  | some w =>
    cases hd : decode w with
    | ok i => simp [completePending, hd, exec_eq]
    | error e => simp [completePending, hd]

/-- A step with no event waiting is the core's turn. -/
theorem step_nil {s : State} (h : s.port = []) : step s = coreTurn s := by
  simp [step, advance, h]

/-- A step with an event waiting takes it. -/
theorem step_cons {s : State} {e : Event} {rest : List Event} (h : s.port = e :: rest) :
    step s = runEvent e { s with port := rest } := by
  simp [step, advance, h]

/-- Everything one step can do. -/
theorem step_cases (s : State) :
    (s.port = [] ∧ step s = coreTurn s) ∨
    (∃ e rest, s.port = e :: rest ∧ step s = runEvent e { s with port := rest }) := by
  cases h : s.port with
  | nil => exact .inl ⟨rfl, step_nil h⟩
  | cons e rest => exact .inr ⟨e, rest, rfl, step_cons h⟩

/-- A write is dropped while `BUSY` = 1 or `rst` is asserted (rules R41, R170). -/
theorem regWrite_dropped {idx : RegIdx} {v : Word} {s : State} (h : s.rst = true ∨ s.busy = true) :
    regWrite idx v s = s := by
  rcases h with h | h <;> simp [regWrite, h]

/-- Everything a write to an idle core can do (rules R30, R31). -/
theorem regWriteIdle_cases (idx : RegIdx) (v : Word) (s : State) :
    regWriteIdle idx v s = s ∨ (idx = 0#4 ∧ regWriteIdle idx v s = accept v s) ∨
      (∃ j : Fin 4, regWriteIdle idx v s = { s with blk := s.blk.set j v }) ∨
      (∃ j : Fin 8, regWriteIdle idx v s = { s with key := s.key.set j v }) := by
  obtain ⟨⟨n, hn⟩⟩ := idx
  have hBlk : ∀ j : Fin 4, n = 4 + j.val →
      regWriteIdle ⟨⟨n, hn⟩⟩ v s = { s with blk := s.blk.set j v } := by
    intro j hj; subst hj; fin_cases j <;> rfl
  have hKey : ∀ j : Fin 8, n = 8 + j.val →
      regWriteIdle ⟨⟨n, hn⟩⟩ v s = { s with key := s.key.set j v } := by
    intro j hj; subst hj; fin_cases j <;> rfl
  by_cases h8 : 8 ≤ n
  · exact .inr (.inr (.inr ⟨⟨n - 8, by omega⟩, hKey _ (by simp only; omega)⟩))
  · by_cases h4 : 4 ≤ n
    · exact .inr (.inr (.inl ⟨⟨n - 4, by omega⟩, hBlk _ (by simp only; omega)⟩))
    · obtain rfl | rfl | rfl | rfl : n = 0 ∨ n = 1 ∨ n = 2 ∨ n = 3 := by omega
      · exact .inr (.inl ⟨rfl, rfl⟩)
      all_goals exact .inl rfl

/-- Everything a write to the port can do (rules R30, R31, R41, R170). -/
theorem regWrite_cases (idx : RegIdx) (v : Word) (s : State) :
    regWrite idx v s = s ∨
    (s.rst = false ∧ s.busy = false ∧
      ((idx = 0#4 ∧ regWrite idx v s = accept v s) ∨
        (∃ j : Fin 4, regWrite idx v s = { s with blk := s.blk.set j v }) ∨
        (∃ j : Fin 8, regWrite idx v s = { s with key := s.key.set j v }))) := by
  by_cases h : s.rst = true ∨ s.busy = true
  · exact .inl (regWrite_dropped h)
  · rw [not_or, Bool.not_eq_true, Bool.not_eq_true] at h
    have hw : regWrite idx v s = regWriteIdle idx v s := by simp [regWrite, h.1, h.2]
    rw [hw]
    exact (regWriteIdle_cases idx v s).imp_right fun hc => ⟨h.1, h.2, hc⟩

/-- Everything an event that is not the core's turn can do (rules R41, R46, R170). -/
theorem runEvent_cases {e : Event} (s : State) (he : e ≠ .core) :
    (∃ idx, runEvent e s = .next (hostRead idx s)) ∨
    (∃ idx v, runEvent e s = .next (regWrite idx v s)) ∨
    (e = .rstAssert ∧ runEvent e s = .next (assertReset s)) ∨
    (e = .rstRelease ∧ runEvent e s = .next (releaseReset s)) ∨
    (∃ offset width, transferWellFormed offset width = false ∧
      (e = .busRead offset width ∨ ∃ v, e = .busWrite offset width v) ∧ runEvent e s = .refused .unsupportedTransfer) := by
  cases e with
  | regRead idx => exact .inl ⟨idx, rfl⟩
  | regWrite idx v => exact .inr (.inl ⟨idx, v, rfl⟩)
  | busRead offset width =>
    cases hw : transferWellFormed offset width
    · exact .inr (.inr (.inr (.inr ⟨offset, width, hw, .inl rfl, by simp [runEvent, transferIndex, hw]⟩)))
    · exact .inl ⟨BitVec.ofNat 4 (offset / 4), by simp [runEvent, transferIndex, hw]⟩
  | busWrite offset width v =>
    cases hw : transferWellFormed offset width
    · exact .inr (.inr (.inr (.inr ⟨offset, width, hw, .inr ⟨v, rfl⟩, by simp [runEvent, transferIndex, hw]⟩)))
    · exact .inr (.inl ⟨BitVec.ofNat 4 (offset / 4), v, by simp [runEvent, transferIndex, hw]⟩)
  | rstAssert => exact .inr (.inr (.inl ⟨rfl, rfl⟩))
  | rstRelease => exact .inr (.inr (.inr (.inl ⟨rfl, rfl⟩)))
  | core => exact absurd rfl he

end Sys2Proof.Machine
end

