-- ==== Sys2Proof/Tests/Slice0.lean ====
section
/-!
SUPPORT. Tests of single functions and single steps, with expected values from `95_test_vectors.md` or
from the rule named; and for every statement with hypotheses a concrete state that meets them.
-/

namespace Sys2Proof.Tests

open Sys2Proof Machine

/-! ## Well-formedness: one ill-formed request per check (rule R46) -/

theorem test_wf_good : transferWellFormed 0 4 = true ∧ transferWellFormed 60 4 = true := by decide

theorem test_wf_narrow : transferWellFormed 0 2 = false := by decide

theorem test_wf_wide : transferWellFormed 0 8 = false := by decide

theorem test_wf_misaligned : transferWellFormed 2 4 = false := by decide

theorem test_wf_outside : transferWellFormed 64 4 = false := by decide

/-- Rule R62: a command with an unsupported selector is well formed, and fails. -/
theorem test_wf_command : (Instr.keyexp 3#2).wellFormed = true ∧ (Instr.encrypt 1#2).wellFormed = true := by decide

/-! ## Decoding: words written out bit by bit (rule R60), results of section 7.1 -/

theorem test_decode_gentab : decode 0b00000000000000000000000000_00_0001#32 = .ok .gentab := rfl

theorem test_decode_keyexp : decode 0b00000000000000000000000000_01_0010#32 = .ok (.keyexp 1#2) := rfl

theorem test_decode_keyexp_ksz2 : decode 0b00000000000000000000000000_10_0010#32 = .ok (.keyexp 2#2) := rfl

theorem test_decode_keyinv : decode 0b00000000000000000000000000_00_0011#32 = .ok .keyinv := rfl

theorem test_decode_encblk : decode 0b00000000000000000000000000_00_0100#32 = .ok .encblk := rfl

theorem test_decode_decblk : decode 0b00000000000000000000000000_00_0101#32 = .ok .decblk := rfl

theorem test_decode_encrypt : decode 0b00000000000000000000000000_01_0110#32 = .ok (.encrypt 1#2) := rfl

theorem test_decode_decrypt : decode 0b00000000000000000000000000_11_0111#32 = .ok (.decrypt 3#2) := rfl

theorem test_decode_ill_formed :
    decode 0b00000000000000000000000001_00_0001#32 = .error .reservedBits ∧
    decode 0b10000000000000000000000000_00_0110#32 = .error .reservedBits ∧
    decode 0b00000000000000000000000000_01_0001#32 = .error .keySizeField ∧
    decode 0b00000000000000000000000000_11_0101#32 = .error .keySizeField ∧
    decode 0b00000000000000000000000000_00_0000#32 = .error .unassignedOpcode ∧
    decode 0b00000000000000000000000000_00_1000#32 = .error .unassignedOpcode := ⟨rfl, rfl, rfl, rfl, rfl, rfl⟩

/-- The words of rule R67. -/
theorem test_encode :
    encode .gentab = 0x01#32 ∧ encode (.keyexp 1#2) = 0x12#32 ∧ encode .keyinv = 0x03#32 ∧ encode .encblk = 0x04#32 ∧
    encode .decblk = 0x05#32 ∧ encode (.encrypt 2#2) = 0x26#32 ∧ encode (.decrypt 3#2) = 0x37#32 := by decide

/-- A number of more than 32 bits is no command (rule R66); bits above the row's width do not count. -/
theorem test_table_word :
    decodeTableWord 32 0x12 = some (.keyexp 1#2) ∧ decodeTableWord 32 0x10 = none ∧
    decodeTableWord 64 0x100000001 = none ∧ decodeTableWord 8 0x101 = some .gentab := ⟨rfl, rfl, rfl, rfl⟩

/-! ## Functions (sections 2 and 3 of `95_test_vectors.md`) -/

theorem test_xtime : xtime 0x80#8 = 0x1B#8 ∧ xtime 0x57#8 = 0xAE#8 := by decide

theorem test_gmul : gmul 0x57#8 0x13#8 = 0xFE#8 ∧ gmul 0x57#8 0x83#8 = 0xC1#8 := by decide

theorem test_mixWord : mixWord 0xDB135345#32 = 0x8E4DA1BC#32 ∧ invMixWord 0x00000001#32 = 0x090D0B0E#32 := by decide

theorem test_rotWord : rotWord 0x0C0D0E0F#32 = 0x0D0E0F0C#32 ∧ rotl8 0x81#8 1 = 0x03#8 := by decide

theorem test_inv : inv 0x02#8 = 0x8D#8 ∧ inv 0xFF#8 = 0x1C#8 ∧ affine 0xCA#8 = 0xED#8 := by decide +kernel

theorem test_sbox : sboxEntry 0x01#8 = 0x7C#8 ∧ isboxEntry 0x63#8 = 0x00#8 := by decide +kernel

theorem test_subShift :
    subShift sboxEntry ⟨0x00102030#32, 0x40506070#32, 0x8090A0B0#32, 0xC0D0E0F0#32⟩ =
      ⟨0x6353E08C#32, 0x0960E104#32, 0xCD70B751#32, 0xBACAD0E7#32⟩ := by decide +kernel

/-- Rule R43's example, and its bytes again. -/
theorem test_wire :
    bytesOfBlock ⟨0x00112233#32, 0x44556677#32, 0x8899AABB#32, 0xCCDDEEFF#32⟩ =
      [0x00#8, 0x11#8, 0x22#8, 0x33#8, 0x44#8, 0x55#8, 0x66#8, 0x77#8, 0x88#8, 0x99#8, 0xAA#8, 0xBB#8, 0xCC#8, 0xDD#8,
        0xEE#8, 0xFF#8] := by decide

/-- The key of section 1.1 from its 16 bytes: the words of section 4.1, round key 0 (rule R43). -/
theorem test_wireKey128 :
    (keyOfBytes128 #v[0x00#8, 0x01#8, 0x02#8, 0x03#8, 0x04#8, 0x05#8, 0x06#8, 0x07#8, 0x08#8, 0x09#8, 0x0A#8, 0x0B#8,
      0x0C#8, 0x0D#8, 0x0E#8, 0x0F#8] ⟨0, 0, 0, 0, 0, 0, 0, 9⟩) =
      ⟨0x00010203, 0x04050607, 0x08090A0B, 0x0C0D0E0F, 0, 0, 0, 9⟩ := by decide

/-- The last word of a 256-bit key is that of bytes 28 to 31 (rules R43, R49). -/
theorem test_wireKey256 :
    (keyOfBytes256 (Vector.ofFn fun i => BitVec.ofNat 8 i.val)).k7 = 0x1C1D1E1F#32 := by decide

/-! ## The port and reset, one step each -/

/-- What a step's next state must satisfy; false where there is none. -/
def nextIs (o : Host.Outcome State Fault Refusal) (p : State → Bool) : Bool :=
  match o with
  | .next t => p t
  | .fault _ => false
  | .refused _ => false

/-- Whether a step is refused under the name given. -/
def refusedAs (o : Host.Outcome State Fault Refusal) (r : Refusal) : Bool :=
  match o with
  | .refused q => q == r
  | .next _ => false
  | .fault _ => false

/-- The reset state with events waiting. -/
def withEvents (events : List Event) : State := { State.reset with port := events }

/-- Any word is accepted, one that encodes no command too (rule R21): STATUS 0x00000001. -/
theorem test_accept :
    nextIs (step (withEvents [.regWrite 0#4 0xFFFFFFFF#32]))
      (fun t => t.status == 0x00000001#32 && t.pend == some 0xFFFFFFFF#32) = true := by decide

theorem test_write_block :
    nextIs (step (withEvents [.regWrite 7#4 0xCCDDEEFF#32])) (fun t => t.blk == ⟨0, 0, 0, 0xCCDDEEFF⟩) = true := by decide

theorem test_write_key :
    nextIs (step (withEvents [.regWrite 8#4 1#32])) (fun t => t.key == ⟨1, 0, 0, 0, 0, 0, 0, 0⟩) = true := by decide

theorem test_key_reads_zero :
    nextIs (step { withEvents [.regRead 15#4] with key := ⟨7, 7, 7, 7, 7, 7, 7, 7⟩ }) (fun t => t.reads == [0#32]) = true := by
  decide

theorem test_bus_write :
    nextIs (step (withEvents [.busWrite 20 4 0x44556677#32])) (fun t => t.blk == ⟨0, 0x44556677, 0, 0⟩) = true := by decide

theorem test_bus_refused :
    refusedAs (step (withEvents [.busWrite 18 4 0#32])) .unsupportedTransfer = true ∧
    refusedAs (step (withEvents [.busRead 16 1])) .unsupportedTransfer = true := by decide

/-- Section 7.2: an illegal word completes with STATUS 0x00000022. -/
theorem test_illegal :
    nextIs (step (State.reset.withFetchWord 32 8)) (fun t => t.status == 0x00000022#32) = true := by decide

/-- Section 8.6: reset abandons a pending command. -/
theorem test_reset_abandons :
    nextIs (step { State.reset.withFetchWord 32 6 with port := [.rstAssert] })
      (fun t => t.status == 0#32 && t.pend == none && t.rst) = true := by decide

/-- An idle core does nothing (rule R163). -/
theorem test_idle : nextIs (step State.reset) (fun t => t == State.reset) = true := by decide +kernel

/-! ## The commands, one step each -/

/-- The key of section 1.1, in a 256-bit key's registers. -/
def exampleKey : KeyRegs :=
  ⟨0x00010203#32, 0x04050607#32, 0x08090A0B#32, 0x0C0D0E0F#32, 0x10111213#32, 0x14151617#32, 0x18191A1B#32, 0x1C1D1E1F#32⟩

/-- The plaintext of section 1.1. -/
def examplePlain : Block := ⟨0x00112233#32, 0x44556677#32, 0x8899AABB#32, 0xCCDDEEFF#32⟩

/-- Its ciphertext. -/
def exampleCipher : Block := ⟨0x69C4E0D8#32, 0x6A7B0430#32, 0xD8CDB780#32, 0x70B4C55A#32⟩

/-- Section 7.2: GENTAB leaves STATUS 0x00000006; the entries are those of section 3. -/
theorem test_gentab :
    nextIs (step (State.reset.withFetchWord 32 1))
      (fun t => t.status == 0x00000006#32 && t.sboxAt 0x53#8 == 0xED#8 && t.isboxAt 0x63#8 == 0x00#8) = true := by
  decide +kernel

/-- Section 4.1: STATUS and the last round-key word. -/
theorem test_keyexp :
    nextIs (exec (.keyexp 0#2) { State.reset with key := exampleKey })
      (fun t => t.status == 0x00004A0E#32 && t.ksAt 43 == 0x4D2B30C5#32 && t.ks[44]? == some none) = true := by
  decide +kernel

/-- Section 7.2: an unsupported selector leaves STATUS 0x00000012. -/
theorem test_keyexp_refused :
    nextIs (step (State.reset.withFetchWord 32 0x22)) (fun t => t.status == 0x00000012#32) = true := by decide

/-- A state with a context of `rounds` rounds, the round-key words all `w`, and the generated tables. -/
def contextState (size : KeySize) (w : Word) : State :=
  { State.reset with
    tv := true, ksv := true, rounds := BitVec.ofNat 4 size.rounds, keyWords := BitVec.ofNat 4 size.keyWords
    sbox := genSbox.map some, isbox := genIsbox.map some, ks := List.replicate 60 (some w), key := exampleKey }

/-- Section 4.1, word 4 before and after KEYINV; rule R120: words 3 and 40 stay, words 4 and 39 change. -/
theorem test_keyinv :
    nextIs (exec .keyinv (contextState .k128 0xD6AA74FD#32))
      (fun t => [t.ksAt 3, t.ksAt 4, t.ksAt 39, t.ksAt 40] ==
        [0xD6AA74FD#32, 0x8C56DFF0#32, 0x8C56DFF0#32, 0xD6AA74FD#32]) = true := by decide +kernel

/-- Section 7.2: without a context STATUS is 0x00000032. -/
theorem test_keyinv_no_context :
    nextIs (step (State.reset.withFetchWord 32 3)) (fun t => t.status == 0x00000032#32) = true := by decide

/-- A context with the expanded key of section 4.1, its middle words mixed for decryption where asked. -/
def exampleContext (inverted : Bool) (b : Block) : State :=
  let words := wordAt (keyExpand sboxEntry State.reset.rconAt .k128 exampleKey)
  { contextState .k128 0#32 with
    blk := b, ks := writeEntries 0 44 (if inverted then keyInvert words 10 else words) (List.replicate 60 none) }

/-- Section 1.1 through the context (rule R125's example). -/
theorem test_encblk :
    nextIs (exec .encblk (exampleContext false examplePlain)) (fun t => t.blk == exampleCipher && t.ksv) = true := by
  decide +kernel

theorem test_encblk_no_context :
    nextIs (step (State.reset.withFetchWord 32 4)) (fun t => t.status == 0x00000032#32) = true := by decide

/-- Rule R135's example. -/
theorem test_decblk :
    nextIs (exec .decblk (exampleContext true exampleCipher)) (fun t => t.blk == examplePlain && t.ksv) = true := by
  decide +kernel

theorem test_decblk_no_context :
    nextIs (step (State.reset.withFetchWord 32 5)) (fun t => t.status == 0x00000032#32) = true := by decide

/-- Known answer 2 (section 1.2), from reset. -/
theorem test_encrypt :
    nextIs (step (State.reset.withFetchWord 32 6))
      (fun t => t.status == 0x00000006#32 && t.blk == ⟨0x66E94BD4, 0xEF8A2C3B, 0x884CFA59, 0xCA342B2E⟩) = true := by
  decide +kernel

theorem test_encrypt_refused :
    nextIs (step (State.reset.withFetchWord 32 0x16)) (fun t => t.status == 0x00000012#32) = true := by decide

/-- Section 7.2: the decryption of the zero block under the zero key. -/
theorem test_decrypt :
    nextIs (step (State.reset.withFetchWord 32 7))
      (fun t => t.status == 0x00000006#32 && t.blk == ⟨0x140F0F10, 0x11B5223D, 0x79587717, 0xFFD9EC3A⟩) = true := by
  decide +kernel

theorem test_decrypt_refused :
    nextIs (step (State.reset.withFetchWord 32 0x37)) (fun t => t.status == 0x00000012#32) = true := by decide

/-! ## Witnesses: states and operands that meet the hypotheses of each statement together -/

/-- CompositeEqualsUnitCommands, and others below: the context state is a state of the invariant, for both
key sizes. -/
theorem contextState_inv (size : KeySize) (w : Word) : MachineInv (contextState size w) where
  busy_iff_pending := rfl
  busy_clear := nofun
  context_tables _ := rfl
  context_size _ := by cases size; exacts [.inl ⟨rfl, rfl⟩, .inr ⟨rfl, rfl⟩]
  no_context := nofun
  tables _ := ⟨rfl, rfl⟩
  err_le := Nat.zero_le 3
  context_words _ i hi := by
    refine ⟨w, ?_⟩
    have : i < 60 := by cases size <;> simp [contextState, KeySize.rounds, KeySize.keyWords] at hi <;> omega
    exact (List.getElem?_replicate ..).trans (if_pos this)
  memory := ⟨by simp [contextState], by simp [contextState], List.length_replicate, rfl⟩
  reset_held := nofun

/-- The same without a context, with events waiting. -/
def plainState (events : List Event) : State :=
  { State.reset with
    tv := true, sbox := genSbox.map some, isbox := genIsbox.map some, key := exampleKey, port := events }

theorem plainState_inv (events : List Event) : MachineInv (plainState events) where
  busy_iff_pending := rfl
  busy_clear := nofun
  context_tables _ := rfl
  context_size := nofun
  no_context _ := ⟨rfl, rfl⟩
  tables _ := ⟨rfl, rfl⟩
  err_le := Nat.zero_le 3
  context_words := nofun
  memory := ⟨by simp [plainState], by simp [plainState], List.length_replicate, rfl⟩
  reset_held := nofun

/-- The plain state with a command pending. -/
def busyState (w : Word) (events : List Event) : State := accept w (plainState events)

theorem busyState_inv (w : Word) (events : List Event) : MachineInv (busyState w events) where
  busy_iff_pending := rfl
  busy_clear _ := ⟨rfl, rfl⟩
  context_tables _ := rfl
  context_size := nofun
  no_context _ := ⟨rfl, rfl⟩
  tables _ := ⟨rfl, rfl⟩
  err_le := Nat.zero_le 3
  context_words := nofun
  memory := (plainState_inv events).memory.of_eq rfl rfl rfl rfl
  reset_held := nofun

/-- DecodeIsInverseOfEncode: either side of the equivalence, at the least and the greatest legal word. -/
theorem witness_decodeIsInverseOfEncode :
    (Instr.gentab.wellFormed = true ∧ decode 0x01#32 = .ok .gentab ∧ encode .gentab = 0x01#32) ∧
    ((Instr.decrypt 3#2).wellFormed = true ∧ decode 0x37#32 = .ok (.decrypt 3#2) ∧ encode (.decrypt 3#2) = 0x37#32) :=
  ⟨⟨rfl, rfl, rfl⟩, rfl, rfl, rfl⟩

/-- DecoderOnEveryWord: reserved bits at both ends of their field, each branch of the table at a word of
its own, and a failing word with the command it decodes to. -/
theorem witness_decoderOnEveryWord :
    (∀ w ∈ [0x40#32, 0x80000000#32], w.extractLsb' 6 26 ≠ 0#26) ∧
    (∀ w ∈ [0x02#32, 0x36#32, 0x07#32, 0x11#32, 0x01#32, 0x03#32, 0x04#32, 0x05#32, 0x00#32, 0x0F#32],
      w.extractLsb' 6 26 = 0#26) ∧
    decode 0x22#32 = .ok (.keyexp 2#2) ∧ decode 0x37#32 = .ok (.decrypt 3#2) :=
  ⟨by simp, by simp, rfl, rfl⟩

/-- The decoder's clause about `PEND`, CompletionChecksInOrder and StepRunsTheDecodedCommand: states with
a word pending for each of the cases (illegal, bad key size, no context, none), and with the core's turn
as the next event. -/
theorem witness_completion :
    (∀ w, (busyState w []).rst = false ∧ (busyState w []).busy = true ∧ (busyState w []).pend = some w ∧
      (busyState w []).port = [] ∧ (busyState w []).ksv = false) ∧
    decode 0x00#32 = .error .unassignedOpcode ∧
    0x32#32 ∈ [0x22#32, 0x32#32, 0x16#32, 0x26#32, 0x36#32, 0x17#32, 0x27#32, 0x37#32] ∧
    0x05#32 ∈ [0x03#32, 0x04#32, 0x05#32] ∧ decode 0x01#32 = .ok .gentab ∧
    (busyState 0x01#32 [.core]).port = [.core] :=
  ⟨fun _ => ⟨rfl, rfl, rfl, rfl, rfl⟩, rfl, by decide, by decide, rfl, rfl⟩

/-- Of the pending words above the first decodes to no command. -/
theorem witness_illegalWord : ∀ i, decode 0x00#32 ≠ .ok i := fun _ h => by
  have : decode 0x00#32 = .error .unassignedOpcode := rfl
  rw [this] at h
  nomatch h

/-- ResetStepFromAnyState: reset in a busy state, and a write, the core's turn, silence and the release
while it is asserted. -/
theorem witness_reset :
    (busyState 6#32 [.rstAssert]).port = .rstAssert :: [] ∧ (busyState 6#32 [.rstAssert]).busy = true ∧
    (∀ p ∈ [[Event.regWrite 0#4 1#32], [.core], [], [.rstRelease]],
      (assertReset (busyState 6#32 p)).rst = true ∧ (assertReset (busyState 6#32 p)).port = p) := by decide +kernel

/-- The state after the assertion of `rst` is at reset, and has a next state. -/
theorem witness_resetHeld :
    AtReset (assertReset (plainState [])) ∧ step (assertReset (plainState [])) = .next (assertReset (plainState [])) :=
  ⟨⟨rfl, rfl, rfl, rfl, rfl, rfl, rfl, rfl, rfl, rfl, rfl, rfl, rfl⟩, rfl⟩

/-- InvariantKeptByEveryStep, KeyRegistersDoNotLeak, OutcomeHeldUntilNextCommand: a state of the invariant
with `TV` = 1, idle, whose next event is no turn of the core and has an effect. -/
theorem witness_invariantStep :
    ∃ t, MachineInv (plainState [.regWrite 0#4 6#32]) ∧ (plainState [.regWrite 0#4 6#32]).tv = true ∧
      (plainState [.regWrite 0#4 6#32]).busy = false ∧ step (plainState [.regWrite 0#4 6#32]) = .next t ∧
      runEvent (.regWrite 0#4 6#32) (plainState []) = .next t ∧ Event.regWrite 0#4 6#32 ≠ .core :=
  ⟨_, plainState_inv _, rfl, rfl, rfl, rfl, nofun⟩

/-- NoFaultFromTheInvariant: a state of the invariant whose step is refused. -/
theorem witness_refusedStep :
    MachineInv (plainState [.busRead 1 4]) ∧ step (plainState [.busRead 1 4]) = .refused .unsupportedTransfer :=
  ⟨plainState_inv _, rfl⟩

/-- CommandWriteIsAccepted, on an idle and on a busy core. -/
theorem witness_commandWrite :
    ∀ s ∈ [plainState [.regWrite 0#4 6#32], busyState 1#32 [.regWrite 0#4 6#32]],
      s.rst = false ∧ s.port = .regWrite 0#4 6#32 :: [] := by decide

/-- DataWritesChangeOneRegister: the first and the last register of each set, an index without a register,
a write on a busy core, and a read. -/
theorem witness_dataWrites :
    (∀ idx ∈ [4#4, 7#4, 8#4, 15#4, 1#4, 3#4], (plainState [.regWrite idx 9#32]).rst = false ∧
      (plainState [.regWrite idx 9#32]).busy = false ∧ (plainState [.regWrite idx 9#32]).port = .regWrite idx 9#32 :: []) ∧
    BitVec.ofNat 4 (4 + (3 : Fin 4).val) = 7#4 ∧ BitVec.ofNat 4 (8 + (7 : Fin 8).val) = 15#4 ∧
    (busyState 1#32 [.regWrite 15#4 9#32]).busy = true ∧
    (plainState [.regRead 15#4]).port = .regRead 15#4 :: [] := by decide

/-- StatusWordLayout: states of the invariant with either context and without one; an index other than 0. -/
theorem witness_status :
    MachineInv (contextState .k128 0#32) ∧ MachineInv (contextState .k256 0#32) ∧ MachineInv (plainState []) ∧
      (15#4 : RegIdx) ≠ 0#4 :=
  ⟨contextState_inv _ _, contextState_inv _ _, plainState_inv _, by decide⟩

/-- OnlyAlignedWordTransfersAreServed: the last register, the first offset beyond it, the last offset of
the space that is not aligned, and a width of two. -/
theorem witness_bus :
    (plainState [.busWrite (4 * (15#4 : RegIdx).toNat) 4 1#32]).port = .busWrite 60 4 1#32 :: [] ∧
    (plainState [.busRead (4 * (15#4 : RegIdx).toNat) 4]).port = .busRead 60 4 :: [] ∧
    (64 ≤ 64 ∧ (plainState [.busRead 64 4]).port = .busRead 64 4 :: []) ∧
    (63 % 4 ≠ 0 ∧ (plainState [.busWrite 63 4 1#32]).port = .busWrite 63 4 1#32 :: []) ∧
    ((2 : Nat) ≠ 4 ∧ (plainState [.busRead 0 2]).port = .busRead 0 2 :: []) := by decide

/-- BlockReadReturnsTheValueWritten, WritesWhileBusyAreLost and ReadsWhileBusySeeTheOldState: a write and a
read of the last block register, idle and busy, on the port and on the bus. -/
theorem witness_writeThenRead :
    (∀ s ∈ [plainState [.regWrite 7#4 9#32, .regRead 7#4], busyState 6#32 [.regWrite 7#4 9#32, .regRead 7#4]],
      s.rst = false ∧ s.port = .regWrite (BitVec.ofNat 4 (4 + (3 : Fin 4).val)) 9#32 :: [.regRead 7#4]) ∧
    (plainState [.regWrite 7#4 9#32, .regRead 7#4]).busy = false ∧
    (busyState 6#32 [.regWrite 7#4 9#32, .regRead 7#4]).busy = true ∧
    (busyState 6#32 [.busWrite (4 * (7#4 : RegIdx).toNat) 4 9#32]).port = .busWrite 28 4 9#32 :: [] := by decide

/-- EveryAcceptedCommandCompletes: a busy state of the invariant with supported transactions waiting. -/
theorem witness_pendingCommand :
    MachineInv (busyState 6#32 [.regRead 1#4, .busRead 4 4]) ∧ (busyState 6#32 [.regRead 1#4, .busRead 4 4]).busy = true ∧
      ∀ e ∈ (busyState 6#32 [.regRead 1#4, .busRead 4 4]).port, e ≠ .rstAssert ∧
        (∀ offset width, e = .busRead offset width → transferWellFormed offset width = true) ∧
        (∀ offset width v, e = .busWrite offset width v → transferWellFormed offset width = true) := by
  refine ⟨busyState_inv _ _, rfl, ?_⟩
  have hp : (busyState 6#32 [.regRead 1#4, .busRead 4 4]).port = [.regRead 1#4, .busRead 4 4] := rfl
  simp [hp, transferWellFormed]

/-- CommandsWriteOnlyWhatTheirRulesName, UnspecifiedValuesAreNeverRead, KeyChangeNeedsACommand: a command
that runs in a state of the invariant with a context. -/
theorem witness_commandRuns :
    ∃ t, MachineInv (contextState .k256 0#32) ∧ exec .encblk (contextState .k256 0#32) = .next t ∧
      Instr.encblk ∈ [Instr.keyinv, .encblk, .decblk] :=
  ⟨_, contextState_inv _ _, exec_eq _ _, by decide⟩

/-- TableGenerationSteps: the least and the greatest byte that has an inverse. -/
theorem witness_nonZeroBytes : 0x01#8 ≠ 0x00#8 ∧ 0xFF#8 ≠ (0x00#8 : Byte) := by decide

/-- GentabFillsTheTables, the clause for `TV` = 1. -/
theorem witness_tables : MachineInv (plainState []) ∧ (plainState []).tv = true := ⟨plainState_inv _, rfl⟩

/-- KeyExpandRecurrence: the first and the last word of each clause, for both key sizes. -/
theorem witness_scheduleIndices :
    (KeySize.keyWords .k128 ≤ 4 ∧ 43 < 4 * (KeySize.rounds .k128 + 1) ∧ (3 : Fin 8).val < KeySize.keyWords .k128) ∧
    (KeySize.keyWords .k256 ≤ 8 ∧ 59 < 4 * (KeySize.rounds .k256 + 1) ∧ (7 : Fin 8).val < KeySize.keyWords .k256) := by
  decide

/-- KeyexpMakesTheContext and KeyexpRefusesOtherSelectors: both supported selectors, the first and the last
index of either range, both other selectors, and the key of the example. -/
theorem witness_keyexp :
    MachineInv (plainState []) ∧
      (∀ k ∈ [(0#2, KeySize.k128), (1#2, KeySize.k256)],
        k.1 = 0#2 ∧ k.2 = KeySize.k128 ∨ k.1 = 1#2 ∧ k.2 = KeySize.k256) ∧
      0 < 4 * (KeySize.rounds .k128 + 1) ∧ 4 * (KeySize.rounds .k128 + 1) ≤ 44 ∧
      2#2 ∈ [2#2, 3#2] ∧ 3#2 ∈ [2#2, 3#2] ∧
      (plainState []).key.k0 = 0x00010203#32 ∧ (plainState []).key.k1 = 0x04050607#32 ∧
      (plainState []).key.k2 = 0x08090A0B#32 ∧ (plainState []).key.k3 = 0x0C0D0E0F#32 :=
  ⟨plainState_inv _, by decide, by decide, by decide, by decide, by decide, rfl, rfl, rfl, rfl⟩

/-- KeyinvMixesTheMiddleWords, EncblkEncryptsInPlace, DecblkDecryptsInPlace: a context of each size, the
first and the last index that KEYINV changes and the ones beside them, and a state without a context. -/
theorem witness_context :
    MachineInv (contextState .k128 0#32) ∧ (contextState .k128 0#32).ksv = true ∧
    MachineInv (contextState .k256 0#32) ∧ (contextState .k256 0#32).ksv = true ∧
    4 ≤ 39 ∧ 39 < 4 * (contextState .k128 0#32).rounds.toNat ∧ 3 < 4 ∧ 4 * (contextState .k128 0#32).rounds.toNat ≤ 40 ∧
    (plainState []).ksv = false ∧ exampleKey.k0 = 0x00010203#32 ∧ exampleKey.k1 = 0x04050607#32 ∧
    exampleKey.k2 = 0x08090A0B#32 ∧ exampleKey.k3 = 0x0C0D0E0F#32 :=
  ⟨contextState_inv _ _, rfl, contextState_inv _ _, rfl, by decide, by decide, by decide, by decide, rfl, rfl, rfl, rfl, rfl⟩

/-- NoContextFails: each of the three commands without a context. -/
theorem witness_noContext :
    State.reset.ksv = false ∧ Instr.keyinv ∈ [Instr.keyinv, .encblk, .decblk] ∧
      Instr.encblk ∈ [Instr.keyinv, .encblk, .decblk] ∧ Instr.decblk ∈ [Instr.keyinv, .encblk, .decblk] := by decide

/-- EncryptIsThePublicOperation and DecryptIsThePublicOperation: the states of the examples. -/
theorem witness_public :
    (∀ b ∈ [examplePlain, exampleCipher], MachineInv { plainState [] with blk := b }) ∧
    (plainState []).key.k0 = 0x00010203#32 ∧ (plainState []).key.k1 = 0x04050607#32 ∧
    (plainState []).key.k2 = 0x08090A0B#32 ∧ (plainState []).key.k3 = 0x0C0D0E0F#32 ∧
    1#2 ∈ [1#2, 2#2, 3#2] ∧ 3#2 ∈ [1#2, 2#2, 3#2] := by
  refine ⟨fun b _ => ?_, rfl, rfl, rfl, rfl, by decide, by decide⟩
  have h := plainState_inv []
  exact ⟨h.busy_iff_pending, h.busy_clear, h.context_tables, h.context_size, h.no_context, h.tables, h.err_le,
    h.context_words, h.memory.of_eq rfl rfl rfl rfl, nofun⟩

/-- PublicRoundTrip: an idle state of the invariant with the six events of the two lines. -/
theorem witness_roundTrip :
    let s := plainState (lineRun (.encrypt 0#2) ++ lineRun (.decrypt 0#2))
    MachineInv s ∧ s.busy = false ∧ s.rst = false ∧ s.port = lineRun (.encrypt 0#2) ++ lineRun (.decrypt 0#2) :=
  ⟨plainState_inv _, rfl, rfl, rfl⟩

/-- PublicResultDependsOnKeyAndBlock: two states that agree on block and key and differ in the context. -/
theorem witness_twoStates :
    MachineInv (contextState .k256 7#32) ∧ MachineInv (plainState []) ∧
      (contextState .k256 7#32).blk = (plainState []).blk ∧ (contextState .k256 7#32).key = (plainState []).key ∧
      (contextState .k256 7#32).ksv ≠ (plainState []).ksv :=
  ⟨contextState_inv _ _, plainState_inv _, rfl, rfl, by decide⟩

/-- CompositeDestroysTheContext: each kind of command from a context, and a KEYEXP pending without one. -/
theorem witness_composite :
    (∃ t, exec (.encrypt 0#2) (contextState .k128 0#32) = .next t) ∧
    (∃ t, exec (.decrypt 3#2) (contextState .k128 0#32) = .next t) ∧
    (busyState 0x12#32 []).ksv = false ∧
    (∃ t, step (busyState 0x12#32 []) = .next t ∧ t.ksv = true) :=
  ⟨⟨_, exec_eq _ _⟩, ⟨_, exec_eq _ _⟩, rfl, ⟨_, exec_eq (.keyexp 1#2) (busyState 0x12#32 []), rfl⟩⟩

/-- WireFormatOfBlockAndKey: idle states with each of the lines waiting and an event behind it, and the first
key register that a 16-byte key leaves alone. -/
theorem witness_wireFormat (b : Vector Byte 16) (k : Vector Byte 32) :
    (∀ p, (plainState p).rst = false ∧ (plainState p).busy = false) ∧
    (plainState (lineLoadBlockBytes b ++ [.core])).port = lineLoadBlockBytes b ++ [.core] ∧
    (plainState (lineLoadKey128 b ++ [.core])).port = lineLoadKey128 b ++ [.core] ∧
    (plainState (lineLoadKey256 k ++ [.core])).port = lineLoadKey256 k ++ [.core] ∧
    (plainState (lineReadBlock ++ [.core])).port = lineReadBlock ++ [.core] ∧ 4 ≤ (4 : Fin 8).val :=
  ⟨fun _ => ⟨rfl, rfl⟩, rfl, rfl, rfl, rfl, by decide⟩

end Sys2Proof.Tests
end

section
/-!
PROOF. The host's port accesses, one equation per case (rules R30, R31, R41), and the obligations about
acceptance of a command and about data access.
-/

namespace Sys2Proof.Machine

/-- A read of `BLK[i]` after a write of `BLK[j]` (rule R11). -/
theorem Block.get_set (b : Block) (i j : Fin 4) (v : Word) :
    (b.set j v).get i = if i = j then v else b.get i := by
  fin_cases j <;> fin_cases i <;> rfl

/-- A read of `KEY[i]` after a write of `KEY[j]` (rule R12). -/
theorem KeyRegs.get_set (k : KeyRegs) (i j : Fin 8) (v : Word) :
    (k.set j v).get i = if i = j then v else k.get i := by
  fin_cases j <;> fin_cases i <;> rfl

section Writes

variable {s : State} {rest : List Event} {idx : RegIdx} (v : Word)

@[simp] theorem regWriteIdle_cmd : regWriteIdle 0#4 v s = accept v s := rfl

@[simp] theorem regWriteIdle_blk (j : Fin 4) :
    regWriteIdle (BitVec.ofNat 4 (4 + j.val)) v s = { s with blk := s.blk.set j v } := by
  fin_cases j <;> rfl

@[simp] theorem regWriteIdle_key (j : Fin 8) :
    regWriteIdle (BitVec.ofNat 4 (8 + j.val)) v s = { s with key := s.key.set j v } := by
  fin_cases j <;> rfl

/-- `STATUS` and the two unused indices take no write (rules R14, R31). -/
theorem regWriteIdle_of_readOnly (h : idx ∈ [1#4, 2#4, 3#4]) : regWriteIdle idx v s = s := by
  simp only [List.mem_cons, List.not_mem_nil, or_false] at h
  rcases h with rfl | rfl | rfl <;> rfl

/-- With `rst` released and `BUSY` = 0 a write takes effect. -/
theorem regWrite_idle (hrst : s.rst = false) (hbusy : s.busy = false) :
    regWrite idx v s = regWriteIdle idx v s := by
  simp [regWrite, hrst, hbusy]

variable {v}

/-- The step that takes a write on an idle core, with `rst` released (rules R30, R31). -/
theorem step_regWrite_idle (hrst : s.rst = false) (hbusy : s.busy = false)
    (hport : s.port = .regWrite idx v :: rest) :
    step s = .next (regWriteIdle idx v { s with port := rest }) := by
  rw [step_cons hport, runEvent, regWrite_idle]
  · exact hrst
  · exact hbusy

/-- The step that takes a write on a busy core drops it (rule R41). -/
theorem step_regWrite_busy (hbusy : s.busy = true) (hport : s.port = .regWrite idx v :: rest) :
    step s = .next { s with port := rest } := by
  rw [step_cons hport, runEvent, regWrite_dropped]
  exact .inr hbusy

end Writes

section Reads

variable {s : State} {rest : List Event} {idx : RegIdx}

@[simp] theorem regRead_blk (j : Fin 4) : regRead (BitVec.ofNat 4 (4 + j.val)) s = s.blk.get j := by
  fin_cases j <;> rfl

/-- `KEY` is write only: a read of it gives 0 (rules R12, R41). -/
@[simp] theorem regRead_key (j : Fin 8) : regRead (BitVec.ofNat 4 (8 + j.val)) s = 0#32 := by
  fin_cases j <;> rfl

/-- The value a read records does not depend on the events still to come. -/
theorem regRead_withPort : regRead idx { s with port := rest } = regRead idx s := rfl

/-- The step that takes a read, at any time (rule R31). -/
theorem step_regRead (hport : s.port = .regRead idx :: rest) :
    step s = .next { s with port := rest, reads := s.reads ++ [regRead idx s] } := by
  rw [step_cons hport, runEvent, hostRead, regRead_withPort]

end Reads

end Sys2Proof.Machine

namespace Sys2Proof.Proofs

open Machine

/-- Settles O10: with `BUSY` = 0 the write is `accept`, with `BUSY` = 1 it is dropped. -/
theorem commandWriteIsAccepted : Obligations.CommandWriteIsAccepted := by
  intro s rest w hrst hport
  constructor
  · intro hidle
    rw [step_regWrite_idle hrst hidle hport, regWriteIdle_cmd, accept]
  · intro hbusy
    exact step_regWrite_busy hbusy hport

/-- Settles O11, one port equation per clause. -/
theorem dataWritesChangeOneRegister : Obligations.DataWritesChangeOneRegister := by
  refine ⟨fun s rest v hrst hidle => ⟨?blk, ?key, ?readOnly⟩, ?busy, ?read, ?values, Block.get_set, KeyRegs.get_set⟩
  case blk =>
    intro j hport
    rw [step_regWrite_idle hrst hidle hport, regWriteIdle_blk]
  case key =>
    intro j hport
    rw [step_regWrite_idle hrst hidle hport, regWriteIdle_key]
  case readOnly =>
    intro idx hidx hport
    rw [step_regWrite_idle hrst hidle hport, regWriteIdle_of_readOnly v hidx]
  case busy => exact fun _ _ _ _ hbusy hport => step_regWrite_busy hbusy hport
  case read => exact fun _ _ _ hport => step_regRead hport
  case values => exact fun _ => ⟨rfl, rfl, rfl, rfl, regRead_blk, regRead_key⟩

end Sys2Proof.Proofs
end

section
/-!
PROOF. Words and bytes of the wire format (rules R42, R43), the host's lines of data accesses on the port
(rule R68), and the obligations about them.
-/

namespace Sys2Proof.Machine

/-! ## Four bytes and a word (rule R42) -/

/-- Shifting the bytes into place puts them side by side: the two forms of rule R42. Bit `i` of either is a
bit of the byte in whose range `i` falls; what is left after the bit equations is the comparison of ranges. -/
theorem bigEndianWordOf_eq_word (b0 b1 b2 b3 : Byte) : bigEndianWordOf b0 b1 b2 b3 = word b0 b1 b2 b3 := by
  apply BitVec.eq_of_getLsbD_eq
  intro i hi
  simp only [bigEndianWordOf, word, BitVec.getLsbD_or, BitVec.getLsbD_shiftLeft, BitVec.getLsbD_setWidth,
    BitVec.getLsbD_append]
  grind

/-- The bytes of a word on the wire are its lanes, lane 0 first (rules R8, R42). -/
theorem wordToBigEndianBytes_eq_lanes (w : Word) :
    wordToBigEndianBytes w = [lane w 0, lane w 1, lane w 2, lane w 3] := rfl

/-! ## The register sets on the wire (rule R43) -/

/-- Word `j` of a block is word `j` of its bytes. -/
theorem blockOfBytes_get (b : Vector Byte 16) (j : Fin 4) :
    (blockOfBytes b).get j = wireWord b j.val (by omega) := by
  fin_cases j <;> rfl

/-- Bytes `4j` to `4j+3` of a block are the bytes of its word `j`. -/
theorem bytesOfBlock_word (b : Block) (j : Fin 4) :
    ((bytesOfBlock b).drop (4 * j.val)).take 4 = wordToBigEndianBytes (b.get j) := by
  fin_cases j <;> rfl

/-- A key of 16 bytes in its four registers. -/
theorem keyOfBytes128_get_low (b : Vector Byte 16) (k : KeyRegs) (j : Fin 4) :
    (keyOfBytes128 b k).get (j.castLE (by decide)) = wireWord b j.val (by omega) := by
  fin_cases j <;> rfl

/-- A key of 16 bytes leaves the upper four registers as they are (rule R12). -/
theorem keyOfBytes128_get_high (b : Vector Byte 16) (k : KeyRegs) (j : Fin 8) (hj : 4 ≤ j.val) :
    (keyOfBytes128 b k).get j = k.get j := by
  obtain ⟨i, rfl⟩ : ∃ i : Fin 4, j = i.natAdd 4 := ⟨⟨j.val - 4, by omega⟩, by ext; simp; omega⟩
  fin_cases i <;> rfl

/-- A key of 32 bytes in its eight registers. -/
theorem keyOfBytes256_get (b : Vector Byte 32) (j : Fin 8) :
    (keyOfBytes256 b).get j = wireWord b j.val (by omega) := by
  fin_cases j <;> rfl

/-- The bytes of four words read in order are those of the block they make up (rules R43, R68). -/
theorem bytesOfReads_block (b : Block) : bytesOfReads [b.w0, b.w1, b.w2, b.w3] = bytesOfBlock b := rfl

/-! ## Lines of data accesses (rule R68) -/

/-- A run of `n + 1` steps whose first one answers `t` is a run of `n` steps from `t`. -/
theorem run_succ {M : Host.Core} {s t : M.State} (h : M.step s = .next t) (n : Nat) :
    M.run (n + 1) s = M.run n t := by
  rw [Host.Core.run, h]

/-- The events of a sequence of writes. -/
def writeEvents (ws : List (RegIdx × Word)) : List Event := ws.map fun w => .regWrite w.1 w.2

/-- The state after an idle core has taken the writes in order. -/
def takeWrites (ws : List (RegIdx × Word)) (s : State) : State :=
  ws.foldl (fun t w => regWriteIdle w.1 w.2 t) s

/-- The events still to come play no part in a write. -/
theorem regWriteIdle_withPort (idx : RegIdx) (v : Word) (s : State) (p : List Event) :
    regWriteIdle idx v { s with port := p } = { regWriteIdle idx v s with port := p } := by
  unfold regWriteIdle
  split <;> rfl

/-- A write other than of `CMD` neither moves `rst` nor starts a command, and takes no further event
(rule R31). -/
theorem regWriteIdle_frame {idx : RegIdx} (hidx : idx ≠ 0#4) (v : Word) (s : State) :
    (regWriteIdle idx v s).rst = s.rst ∧ (regWriteIdle idx v s).busy = s.busy ∧
      (regWriteIdle idx v s).port = s.port := by
  rcases regWriteIdle_cases idx v s with h | ⟨hcmd, -⟩ | ⟨j, h⟩ | ⟨j, h⟩
  · rw [h]; exact ⟨rfl, rfl, rfl⟩
  · exact absurd hcmd hidx
  · rw [h]; exact ⟨rfl, rfl, rfl⟩
  · rw [h]; exact ⟨rfl, rfl, rfl⟩

/-- An idle core takes a sequence of writes that leaves `CMD` alone, one in each step. -/
theorem run_writes (ws : List (RegIdx × Word)) (rest : List Event) (s : State)
    (hdata : ∀ w ∈ ws, w.1 ≠ 0#4) (hrst : s.rst = false) (hbusy : s.busy = false)
    (hport : s.port = writeEvents ws ++ rest) :
    core.run ws.length s = .next (takeWrites ws { s with port := rest }) := by
  induction ws generalizing s with
  | nil =>
    have hrest : s.port = rest := hport
    subst hrest
    rfl
  | cons w ws ih =>
    rw [List.forall_mem_cons] at hdata
    obtain ⟨hw, hws⟩ := hdata
    obtain ⟨hrst', hbusy', hport'⟩ := regWriteIdle_frame hw w.2 { s with port := writeEvents ws ++ rest }
    calc core.run (ws.length + 1) s
        = core.run ws.length (regWriteIdle w.1 w.2 { s with port := writeEvents ws ++ rest }) :=
          run_succ (M := core) (step_regWrite_idle hrst hbusy hport) _
      _ = .next (takeWrites ws { regWriteIdle w.1 w.2 s with port := rest }) := by
          rw [ih _ hws (hrst'.trans hrst) (hbusy'.trans hbusy) hport', regWriteIdle_withPort]
      _ = .next (takeWrites (w :: ws) { s with port := rest }) := by
          rw [← regWriteIdle_withPort]
          rfl

/-- A sequence of reads changes nothing but what is recorded of it, one read in each step (rule R41). -/
theorem run_reads (idxs : List RegIdx) (rest : List Event) (s : State)
    (hport : s.port = idxs.map .regRead ++ rest) :
    core.run idxs.length s =
      .next { s with port := rest, reads := s.reads ++ idxs.map fun idx => regRead idx s } := by
  induction idxs generalizing s with
  | nil =>
    have hrest : s.port = rest := hport
    subst hrest
    simp [Host.Core.run]
  | cons idx idxs ih =>
    calc core.run (idxs.length + 1) s
        = core.run idxs.length
            { s with port := idxs.map .regRead ++ rest, reads := s.reads ++ [regRead idx s] } :=
          run_succ (M := core) (step_regRead hport) _
      _ = .next { s with port := rest, reads := s.reads ++ (idx :: idxs).map fun i => regRead i s } := by
          rw [ih _ rfl, List.map_cons, ← List.append_cons]
          rfl

section LoadLines

variable {s : State} {rest : List Event} (hrst : s.rst = false) (hbusy : s.busy = false)
include hrst hbusy

/-- `LDBLK` on an idle core writes the block and nothing else. -/
theorem run_lineLoadBlock {b : Block} (hport : s.port = lineLoadBlock b ++ rest) :
    core.run 4 s = .next { s with port := rest, blk := b } := by
  have hrun := run_writes [(4#4, b.w0), (5#4, b.w1), (6#4, b.w2), (7#4, b.w3)] rest s (by simp) hrst hbusy hport
  simpa [takeWrites, regWriteIdle, Block.set] using hrun

/-- `LDKEY128` on an idle core writes the lower four key registers and nothing else. -/
theorem run_lineLoadKey128 {k : KeyRegs} (hport : s.port = lineLoadKey .k128 k ++ rest) :
    core.run 4 s =
      .next { s with port := rest, key := { s.key with k0 := k.k0, k1 := k.k1, k2 := k.k2, k3 := k.k3 } } := by
  have hrun := run_writes [(8#4, k.k0), (9#4, k.k1), (10#4, k.k2), (11#4, k.k3)] rest s (by simp) hrst hbusy hport
  simpa [takeWrites, regWriteIdle, KeyRegs.set] using hrun

/-- `LDKEY256` on an idle core writes the key registers and nothing else. -/
theorem run_lineLoadKey256 {k : KeyRegs} (hport : s.port = lineLoadKey .k256 k ++ rest) :
    core.run 8 s = .next { s with port := rest, key := k } := by
  have hrun := run_writes [(8#4, k.k0), (9#4, k.k1), (10#4, k.k2), (11#4, k.k3), (12#4, k.k4), (13#4, k.k5),
    (14#4, k.k6), (15#4, k.k7)] rest s (by simp) hrst hbusy hport
  simpa [takeWrites, regWriteIdle, KeyRegs.set] using hrun

end LoadLines

/-- `RDBLK` at any time records the four words of the block. -/
theorem run_lineReadBlock {s : State} {rest : List Event} (hport : s.port = lineReadBlock ++ rest) :
    core.run 4 s =
      .next { s with port := rest, reads := s.reads ++ [s.blk.w0, s.blk.w1, s.blk.w2, s.blk.w3] } :=
  run_reads [4#4, 5#4, 6#4, 7#4] rest s hport

end Sys2Proof.Machine

namespace Sys2Proof.Proofs

open Machine

/-- Settles O29: the word of four bytes is `word` of them, the bytes of a word are its lanes, and `word` and
`lane` undo each other. -/
theorem bigEndianPacking : Obligations.BigEndianPacking := by
  refine ⟨bigEndianWordOf_eq_word, fun b0 b1 b2 b3 => ?_, fun w => ⟨wordToBigEndianBytes_eq_lanes w, ?_⟩⟩
  · rw [wordToBigEndianBytes_eq_lanes, bigEndianWordOf_eq_word, lane_word_zero, lane_word_one, lane_word_two,
      lane_word_three]
  · rw [bigEndianWordOf_eq_word, word_lanes]

/-- Settles O52: register by register on the wire, and one line of the host for each clause on the port. -/
theorem wireFormatOfBlockAndKey : Obligations.WireFormatOfBlockAndKey := by
  refine ⟨blockOfBytes_get, bytesOfBlock_word, keyOfBytes128_get_low, keyOfBytes128_get_high, keyOfBytes256_get,
    by decide, fun s rest hrst hbusy => ⟨?block, ?key128, ?key256⟩, ?read⟩
  case block => exact fun _ hport => run_lineLoadBlock hrst hbusy hport
  case key128 => exact fun _ hport => run_lineLoadKey128 hrst hbusy hport
  case key256 => exact fun _ hport => run_lineLoadKey256 hrst hbusy hport
  case read => exact fun s _ hport => ⟨_, run_lineReadBlock hport, bytesOfReads_block s.blk⟩

end Sys2Proof.Proofs
end

section
/-!
PROOF. The decoder on every word: a word decodes to a command exactly when it is that command's word, so
what is to be said of the words that decode is said of the commands (rules R60 to R65); the completion of
a pending word (rule R32); and the obligation about the decoder.
-/

namespace Sys2Proof

/-! ## The fields of a word (rule R60) -/

/-- A word is its three fields side by side. -/
theorem fields_append (w : Word) : rsvField w ++ kszField w ++ opcField w = w := by
  apply BitVec.eq_of_getLsbD_eq
  intro i hi
  simp only [rsvField, kszField, opcField, BitVec.getLsbD_append, BitVec.getLsbD_extractLsb']
  grind

/-- With the reserved bits 0, a word is the encoding of its other two fields. -/
theorem encodeFields_fields {w : Word} (hrsv : rsvField w = 0#26) : encodeFields (opcField w) (kszField w) = w := by
  rw [encodeFields, ← hrsv, fields_append]

/-! ## The decoder (rule R63) -/

/-- A set reserved bit refuses the word before any other test. -/
theorem decode_of_reserved {w : Word} (hrsv : rsvField w ≠ 0#26) : decode w = .error .reservedBits := if_pos hrsv

/-- With the reserved bits 0, the decoder goes by the other two fields, in the order of the rule's tests. The
fields are named, so that a proof may forget how they come from the word. -/
theorem decode_of_fields {w : Word} {opc : BitVec 4} {ksz : BitVec 2} (hrsv : rsvField w = 0#26)
    (hopc : opcField w = opc) (hksz : kszField w = ksz) :
    decode w =
      if opc = 2#4 then .ok (.keyexp ksz)
      else if opc = 6#4 then .ok (.encrypt ksz)
      else if opc = 7#4 then .ok (.decrypt ksz)
      else if ksz ≠ 0#2 then .error .keySizeField
      else if opc = 1#4 then .ok .gentab
      else if opc = 3#4 then .ok .keyinv
      else if opc = 4#4 then .ok .encblk
      else if opc = 5#4 then .ok .decblk
      else .error .unassignedOpcode := by
  subst hopc hksz
  exact if_neg (not_not.mpr hrsv)

/-- A word that decodes to a command has no reserved bit set. -/
theorem rsvField_of_decode {w : Word} {i : Instr} (h : decode w = .ok i) : rsvField w = 0#26 := by
  by_contra hrsv
  rw [decode_of_reserved hrsv] at h
  nomatch h

/-- A word that decodes to a command is that command's word: each test that answers a command fixes the
fields that `encode` writes for it. -/
theorem encode_of_decode {w : Word} {i : Instr} (h : decode w = .ok i) : encode i = w := by
  have hrsv := rsvField_of_decode h
  suffices henc : encode i = encodeFields (opcField w) (kszField w) from henc.trans (encodeFields_fields hrsv)
  rw [decode_of_fields hrsv rfl rfl] at h
  split_ifs at h with h2 h6 h7 hksz h1 h3 h4 h5 <;> cases h
  · rw [encode, h2]
  · rw [encode, h6]
  · rw [encode, h7]
  · rw [encode, h1, not_not.mp hksz]
  · rw [encode, h3, not_not.mp hksz]
  · rw [encode, h4, not_not.mp hksz]
  · rw [encode, h5, not_not.mp hksz]

/-- The word of a command decodes to the command. -/
theorem decode_encode (i : Instr) : decode (encode i) = .ok i := by
  cases i with
  | gentab | keyinv | encblk | decblk => rfl
  | keyexp ksz | encrypt ksz | decrypt ksz => revert ksz; decide

theorem decode_eq_ok_iff {w : Word} {i : Instr} : decode w = .ok i ↔ encode i = w :=
  ⟨encode_of_decode, fun h => h ▸ decode_encode i⟩

/-! ## The words of the commands (rules R61, R63) -/

/-- The sixteen words that rule R63 lists. -/
def legalWords : List Word :=
  [0x01#32, 0x02#32, 0x12#32, 0x22#32, 0x32#32, 0x03#32, 0x04#32, 0x05#32, 0x06#32, 0x16#32, 0x26#32, 0x36#32,
    0x07#32, 0x17#32, 0x27#32, 0x37#32]

/-- The eight words of rule R63 that always fail with InvalidKeySize. -/
def invalidKeySizeWords : List Word :=
  [0x22#32, 0x32#32, 0x16#32, 0x26#32, 0x36#32, 0x17#32, 0x27#32, 0x37#32]

/-- The commands, in the order of the words in `legalWords`. -/
def allCommands : List Instr :=
  [.gentab, .keyexp 0#2, .keyexp 1#2, .keyexp 2#2, .keyexp 3#2, .keyinv, .encblk, .decblk, .encrypt 0#2,
    .encrypt 1#2, .encrypt 2#2, .encrypt 3#2, .decrypt 0#2, .decrypt 1#2, .decrypt 2#2, .decrypt 3#2]

theorem mem_allCommands (i : Instr) : i ∈ allCommands := by
  cases i with
  | gentab | keyinv | encblk | decblk => decide
  | keyexp ksz | encrypt ksz | decrypt ksz => revert ksz; decide

theorem legalWords_eq_map_encode : legalWords = allCommands.map encode := rfl

/-- Each of the sixteen words is the word of a command, and no command has another. -/
theorem mem_legalWords_iff {w : Word} : w ∈ legalWords ↔ ∃ i, encode i = w := by
  simp only [legalWords_eq_map_encode, List.mem_map, mem_allCommands, true_and]

/-- The words that decode to a command are the sixteen of rule R63. -/
theorem exists_decode_iff_mem_legalWords (w : Word) : (∃ i, decode w = .ok i) ↔ w ∈ legalWords := by
  simp only [decode_eq_ok_iff, mem_legalWords_iff]

end Sys2Proof

namespace Sys2Proof.Machine

/-! ## Commands that fail for their key size (rules R62, R113, R145, R146, R152) -/

/-- The command's key-size selector is not one its rule supports: KEYEXP takes each supported key length,
the public operations only the one of 128 bits. -/
def refusesKeySize : Instr → Bool
  | .keyexp ksz => (selectKeySize ksz).isNone
  | .encrypt ksz => ksz != 0#2
  | .decrypt ksz => ksz != 0#2
  | _ => false

/-- A command whose selector is refused completes with InvalidKeySize, whatever the state. -/
theorem afterCommand_of_refusesKeySize {i : Instr} (h : refusesKeySize i = true) (s : State) :
    afterCommand i s = complete 1#3 s := by
  cases i with
  | keyexp ksz =>
    have hsel : selectKeySize ksz = none := Option.isNone_iff_eq_none.mp h
    simp only [afterCommand, hsel]
  | encrypt ksz | decrypt ksz => exact if_neg (bne_iff_ne.mp h)
  | gentab | keyinv | encblk | decblk => nomatch h

/-- The commands whose selector is refused are those of the eight words. -/
theorem refusesKeySize_iff (i : Instr) : refusesKeySize i = true ↔ encode i ∈ invalidKeySizeWords := by
  cases i with
  | gentab | keyinv | encblk | decblk => decide
  | keyexp ksz | encrypt ksz | decrypt ksz => revert ksz; decide

/-! ## The completion of a pending word (rule R32) -/

theorem completePending_of_decode {w : Word} {i : Instr} (h : decode w = .ok i) (s : State) :
    completePending w s = exec i s := by
  rw [completePending, h]

theorem completePending_of_illegal {w : Word} (h : ∀ i, decode w ≠ .ok i) (s : State) :
    completePending w s = .next (complete 2#3 s) := by
  cases hd : decode w with
  | ok i => exact absurd hd (h i)
  | error e => rw [completePending, hd, illegalCommand_eq]

/-- With no event waiting and `rst` released, a busy core completes the word of `PEND`. -/
theorem step_of_pending {s : State} {w : Word} (hrst : s.rst = false) (hbusy : s.busy = true)
    (hpend : s.pend = some w) (hport : s.port = []) : step s = completePending w s := by
  simp [step_nil hport, coreTurn, hrst, hbusy, hpend]

end Sys2Proof.Machine

namespace Sys2Proof.Proofs

open Machine

/-- Settles O3: the decoder's equations give the tests in their order; the legal and the failing words are
those of commands, by `decode_eq_ok_iff`; a completion is `completePending` of `PEND`. -/
theorem decoderOnEveryWord : Obligations.DecoderOnEveryWord := by
  refine ⟨?reserved, ?tests, exists_decode_iff_mem_legalWords, ?keySize, ?pending⟩
  case reserved =>
    intro w hrsv i h
    exact hrsv (rsvField_of_decode h)
  case tests =>
    intro w hrsv opc ksz
    have hdecode := decode_of_fields (opc := opc) (ksz := ksz) hrsv rfl rfl
    clear_value opc ksz
    rw [hdecode]
    split_ifs <;> simp
  case keySize =>
    intro w hw i hd s
    have hrefused : refusesKeySize i = true := by rwa [refusesKeySize_iff, encode_of_decode hd]
    exact ⟨complete 1#3 s, by rw [exec_eq, afterCommand_of_refusesKeySize hrefused], rfl⟩
  case pending =>
    intro s w hrst hbusy hpend hport
    rw [step_of_pending hrst hbusy hpend hport]
    exact ⟨fun i hd => completePending_of_decode hd s,
      fun hillegal => ⟨complete 2#3 s, completePending_of_illegal hillegal s, rfl⟩⟩

end Sys2Proof.Proofs
end

section
/-!
PROOF. Doubling in the field (rule R81): `xtime` by the top bit of the byte, and as an operation on
integers; and the obligation about it.
-/

namespace Sys2Proof.Machine

/-! ## `xtime` by the top bit (rule R81) -/

/-- No term of degree 8 appears, and the shift is the whole product. -/
theorem xtime_of_top_clear {a : Byte} (h : a.getLsbD 7 = false) : xtime a = a <<< 1 := by
  rw [xtime, h]
  exact BitVec.xor_zero

/-- A term of degree 8 appears, and 0x1B takes its place. -/
theorem xtime_of_top_set {a : Byte} (h : a.getLsbD 7 = true) : xtime a = (a <<< 1) ^^^ 0x1B#8 := by
  rw [xtime, if_pos h]

/-! ## `xtime` on integers (rule R81) -/

/-- The top bit of a byte is set exactly from 128 on. -/
theorem byte_top_eq_decide (a : Byte) : a.getLsbD 7 = decide (128 ≤ a.toNat) :=
  (BitVec.msb_eq_getLsbD_last a).symm.trans (BitVec.msb_eq_decide a)

theorem shiftLeft_one_toNat (a : Byte) : (a <<< 1).toNat = 2 * a.toNat % 2 ^ 8 := by
  rw [BitVec.toNat_shiftLeft, Nat.shiftLeft_eq, Nat.mul_comm]

/-- Below 128 the double of a byte is a byte. -/
theorem xtime_toNat_of_lt {a : Byte} (h : a.toNat < 128) : (xtime a).toNat = 2 * a.toNat := by
  have htop : a.getLsbD 7 = false := by rw [byte_top_eq_decide]; exact decide_eq_false (by omega)
  rw [xtime_of_top_clear htop, shiftLeft_one_toNat]
  omega

/-- The polynomial 0x11B cancels the term of degree 8 of a double that passes a byte. -/
theorem double_xor_polynomial_lt {n : Nat} (h : 128 ≤ n) (hbyte : n < 256) : (2 * n) ^^^ 0x11B < 2 ^ 8 := by
  have hquot : (2 * n) / 2 ^ 8 = 1 := by omega
  have hcancel : ((2 * n) ^^^ 0x11B) / 2 ^ 8 = 0 := by
    rw [Nat.xor_div_two_pow, hquot]
    rfl
  omega

/-- From 128 on the double passes a byte: its low byte takes the low byte of 0x11B, and no bit is left
above that. -/
theorem xtime_toNat_of_ge {a : Byte} (h : 128 ≤ a.toNat) : (xtime a).toNat = (2 * a.toNat) ^^^ 0x11B := by
  have htop : a.getLsbD 7 = true := by rw [byte_top_eq_decide]; exact decide_eq_true h
  calc (xtime a).toNat
      = (2 * a.toNat % 2 ^ 8) ^^^ (0x11B % 2 ^ 8) := by
        rw [xtime_of_top_set htop, BitVec.toNat_xor, shiftLeft_one_toNat]
        rfl
    _ = ((2 * a.toNat) ^^^ 0x11B) % 2 ^ 8 := Nat.xor_mod_two_pow.symm
    _ = (2 * a.toNat) ^^^ 0x11B := Nat.mod_eq_of_lt (double_xor_polynomial_lt h a.isLt)

end Sys2Proof.Machine

namespace Sys2Proof.Proofs

open Machine

/-- Settles O24: the formula by the top bit of the byte, the integer reading by whether the double passes a
byte; the corner cases and examples are evaluated. -/
theorem xtimeDoublesInTheField : Obligations.XtimeDoublesInTheField := by
  refine ⟨fun a => ?formula, fun a => ?integer, by decide⟩
  case formula =>
    split_ifs with htop
    · exact xtime_of_top_set htop
    · exact xtime_of_top_clear (eq_false_of_ne_true htop)
  case integer =>
    split_ifs with hlt
    · exact xtime_toNat_of_lt hlt
    · exact xtime_toNat_of_ge (not_lt.mp hlt)

end Sys2Proof.Proofs
end

section
/-!
PROOF. The command GENTAB (rule R100): the state it leaves, what the tables hold in it, and that a second
generation changes no table; and the obligation about it.
-/

namespace Sys2Proof.Machine

/-- GENTAB completes without an error in the state with the tables generated, whatever the state. -/
theorem exec_gentab (s : State) : exec .gentab s = .next (complete 0#3 (generateTables s)) := exec_eq .gentab s

/-- Generation is repeatable: with the generated tables in place and `TV` = 1 it changes nothing. -/
theorem generateTables_of_tables {s : State} (htv : s.tv = true)
    (htables : s.sbox = genSbox.map some ∧ s.isbox = genIsbox.map some) : generateTables s = s := by
  obtain ⟨hsbox, hisbox⟩ := htables
  rw [generateTables, ← hsbox, ← hisbox, ← htv]

/-- The entries of the example of rule R100, each by the generator. -/
theorem tableEntries_example :
    sboxEntry 0x00#8 = 0x63#8 ∧ sboxEntry 0x01#8 = 0x7C#8 ∧ sboxEntry 0x53#8 = 0xED#8 ∧
      isboxEntry 0x63#8 = 0x00#8 := by
  decide +kernel

end Sys2Proof.Machine

namespace Sys2Proof.Proofs

open Machine

/-- Settles O32: the next state is `generateTables` with the status fields of a completion, its tables are
read by the lemmas about the generated lists, and by R34(e) a second generation changes neither of them. -/
theorem gentabFillsTheTables : Obligations.GentabFillsTheTables := by
  refine ⟨fun s => ⟨complete 0#3 (generateTables s), exec_gentab s, rfl, ?sboxSize, ?isboxSize, ?entries⟩, ?again,
    ?word, ⟨_, exec_gentab State.reset, ?status⟩, tableEntries_example⟩
  case sboxSize => simp
  case isboxSize => simp
  case entries =>
    exact fun x => ⟨genSbox_getElem? x, genIsbox_getElem? x, congrFun (sboxAt_of_tables rfl) x,
      congrFun (isboxAt_of_tables rfl) x⟩
  case again =>
    intro s hinv htv
    rw [exec_gentab, generateTables_of_tables htv (hinv.tables htv)]
    rfl
  case word => exact decode_encode .gentab
  case status => rfl

end Sys2Proof.Proofs
end

section
/-!
PROOF. The recurrence of `KeyExpand` (rules R111, R112): what one turn of its loop appends, that later turns
keep it, and which round constant each turn reads; and the obligation about it.
-/

namespace Sys2Proof.Machine

/-! ## The round constant of a turn (rule R112) -/

/-- Word `i` reads round constant `(i - 1) div key_words`: the count of boundaries before it goes up by one
after each boundary. -/
theorem roundConstant_next {keyWords i : Nat} (hi : 0 < i) :
    (if i % keyWords = 0 then (i - 1) / keyWords + 1 else (i - 1) / keyWords) = i / keyWords := by
  obtain ⟨j, rfl⟩ := Nat.exists_eq_succ_of_ne_zero hi.ne'
  simp only [Nat.succ_sub_one, Nat.succ_eq_add_one, Nat.succ_div, Nat.dvd_iff_mod_eq_zero]
  split_ifs <;> rfl

/-- At a boundary the number of the round constant is that of the boundary, counted from 0. -/
theorem roundConstant_of_boundary {keyWords i : Nat} (hi : 0 < i) (hboundary : i % keyWords = 0) :
    (i - 1) / keyWords = i / keyWords - 1 := by
  rw [← roundConstant_next hi, if_pos hboundary, Nat.add_sub_cancel]

/-! ## One turn of the loop (rule R111) -/

/-- Word `i` of the sequence is the one that rule R111 computes from the words before it. -/
def FollowsSchedule (sbox : Byte → Byte) (rcon : Nat → Byte) (keyWords : Nat) (ws : List Word) (i : Nat) : Prop :=
  wordAt ws i =
    wordAt ws (i - keyWords) ^^^ scheduleWord sbox rcon keyWords i ((i - 1) / keyWords) (wordAt ws (i - 1))

section Loop

variable {sbox : Byte → Byte} {rcon : Nat → Byte} {keyWords : Nat}

/-- A longer sequence keeps the words it has, and so what they follow. -/
theorem FollowsSchedule.of_prefix {us ws : List Word} {i : Nat} (h : us <+: ws) (hi : i < us.length)
    (hus : FollowsSchedule sbox rcon keyWords us i) : FollowsSchedule sbox rcon keyWords ws i := by
  rw [FollowsSchedule, wordAt_of_prefix h hi, wordAt_of_prefix h (by omega : i - keyWords < us.length),
    wordAt_of_prefix h (by omega : i - 1 < us.length)]
  exact hus

/-- The word that a turn of the loop appends is the one that follows. -/
theorem followsSchedule_append {ks : List Word} (hpos : 0 < keyWords) (hks : keyWords ≤ ks.length) :
    FollowsSchedule sbox rcon keyWords
      (ks ++ [wordAt ks (ks.length - keyWords) ^^^
        scheduleWord sbox rcon keyWords ks.length ((ks.length - 1) / keyWords) (wordAt ks (ks.length - 1))])
      ks.length := by
  rw [FollowsSchedule, wordAt_of_prefix (List.prefix_append ks _) (by omega : ks.length - keyWords < ks.length),
    wordAt_of_prefix (List.prefix_append ks _) (by omega : ks.length - 1 < ks.length), wordAt_of_lt (by simp)]
  simp

/-- Every word that the loop appends follows from the words before it, when the loop starts with the
round-constant index of its first word. -/
theorem expandWords_followsSchedule (hpos : 0 < keyWords) (n : Nat) (ks : List Word) (hks : keyWords ≤ ks.length)
    {i : Nat} (hlo : ks.length ≤ i) (hhi : i < ks.length + n) :
    FollowsSchedule sbox rcon keyWords
      (expandWords sbox rcon keyWords n ((ks.length - 1) / keyWords) ks) i := by
  induction n generalizing ks with
  | zero => omega
  | succ n ih =>
    rw [expandWords, roundConstant_next (by omega)]
    rcases hlo.eq_or_lt with rfl | hlt
    · exact (followsSchedule_append hpos hks).of_prefix (expandWords_prefix ..) (by simp)
    · generalize wordAt ks (ks.length - keyWords) ^^^ _ = w
      have hlen : (ks ++ [w]).length = ks.length + 1 := List.length_append
      have hstart : (ks ++ [w]).length - 1 = ks.length := by omega
      rw [← hstart]
      exact ih (ks ++ [w]) (by omega) (by omega) (by omega)

end Loop

/-! ## `KeyExpand` (rule R111) -/

section KeyExpand

variable (sbox : Byte → Byte) (rcon : Nat → Byte) (size : KeySize) (key : KeyRegs)

theorem keyWords_pos : 0 < size.keyWords := by cases size <;> decide

/-- The word counts of rule R111: 44 and 60. -/
theorem keyExpand_length : (keyExpand sbox rcon size key).length = 4 * (size.rounds + 1) := by
  have hle : size.keyWords ≤ 4 * (size.rounds + 1) := by cases size <;> decide
  rw [keyExpand, expandWords_length, words_length]
  omega

/-- The key words, by the registers that hold them. -/
theorem wordAt_words {i : Fin 8} (hi : i.val < size.keyWords) : wordAt (key.words size) i.val = key.get i := by
  cases size with
  | k128 =>
    obtain ⟨j, rfl⟩ : ∃ j : Fin 4, i = j.castLE (by decide) := ⟨⟨i.val, hi⟩, rfl⟩
    fin_cases j <;> rfl
  | k256 => fin_cases i <;> rfl

variable {size}

/-- The expansion begins with the words of the key. -/
theorem wordAt_keyExpand_key {i : Fin 8} (hi : i.val < size.keyWords) :
    wordAt (keyExpand sbox rcon size key) i.val = key.get i := by
  rw [keyExpand, wordAt_of_prefix (expandWords_prefix ..) (by rwa [words_length]), wordAt_words size key hi]

/-- Every word of the expansion after those of the key follows from the words before it. -/
theorem keyExpand_followsSchedule {i : Nat} (hlo : size.keyWords ≤ i) (hhi : i < 4 * (size.rounds + 1)) :
    FollowsSchedule sbox rcon size.keyWords (keyExpand sbox rcon size key) i := by
  have hpos := keyWords_pos size
  have hstart : ((key.words size).length - 1) / size.keyWords = 0 :=
    Nat.div_eq_of_lt (by rw [words_length]; omega)
  rw [keyExpand, ← hstart]
  exact expandWords_followsSchedule hpos _ _ (words_length ..).ge (by rwa [words_length])
    (by rw [words_length]; omega)

end KeyExpand

end Sys2Proof.Machine

namespace Sys2Proof.Proofs

open Machine

/-- Settles O33: the recurrence is that of the loop's turns; only a boundary reads a round constant, and
there the count of turns is the boundary's number. -/
theorem keyExpandRecurrence : Obligations.KeyExpandRecurrence := by
  intro sbox rcon size key words n
  refine ⟨keyExpand_length .., fun i hi => wordAt_keyExpand_key sbox rcon key hi, fun i hlo hhi => ?_⟩
  have hfollows : wordAt words i = wordAt words (i - n) ^^^ _ := keyExpand_followsSchedule sbox rcon key hlo hhi
  rw [hfollows, scheduleWord]
  by_cases hboundary : i % n = 0
  · rw [if_pos hboundary, if_pos hboundary,
      roundConstant_of_boundary ((keyWords_pos size).trans_le hlo) hboundary]
  · rw [if_neg hboundary, if_neg hboundary]

end Sys2Proof.Proofs
end

section
/-!
PROOF. The command KEYEXP (rules R110, R113): the state it leaves with a supported selector, the words of
`KS` in it, and its failure with another selector; and the obligations about it.
-/

namespace Sys2Proof.Machine

/-! ## The next state -/

/-- KEYEXP completes without an error when its selector is supported, whatever the state. -/
theorem exec_keyexp {ksz : BitVec 2} {size : KeySize} (h : selectKeySize ksz = some size) (s : State) :
    exec (.keyexp ksz) s = .next (complete 0#3 (expandKey size s)) := by
  rw [exec_eq]
  simp only [afterCommand, h]

/-- KEYEXP of another selector fails with InvalidKeySize, whatever the state. -/
theorem exec_keyexp_unsupported {ksz : BitVec 2} (h : ksz ∈ [2#2, 3#2]) (s : State) :
    exec (.keyexp ksz) s = .next (complete 1#3 s) := by
  have hrefused : refusesKeySize (.keyexp ksz) = true := by revert ksz; decide
  rw [exec_eq, afterCommand_of_refusesKeySize hrefused]

/-! ## The context it makes -/

section Context

variable {s : State} (hinv : MachineInv s) (size : KeySize)
include hinv

/-- The context comes from the generated table, and beside it only the tables change. -/
theorem expandKey_eq :
    expandKey size s = setContext size (keyExpand sboxEntry s.rconAt size s.key)
      { s with sbox := genSbox.map some, isbox := genIsbox.map some, tv := true } := by
  rw [expandKey, (tables_of_inv hinv).1, ensureTables_rconAt, ensureTables_key, ensureTables_eq hinv.tables]

/-- `KS` takes the words of the expansion, from word 0 on. -/
theorem expandKey_ks :
    (expandKey size s).ks =
      writeEntries 0 (4 * (size.rounds + 1)) (wordAt (keyExpand sboxEntry s.rconAt size s.key)) s.ks := by
  rw [expandKey_eq hinv, setContext_ks]

variable {size} {i : Nat}

/-- A word of the context is the word of the expansion. -/
theorem expandKey_ks_inside (hi : i < 4 * (size.rounds + 1)) :
    (expandKey size s).ks[i]? = some (some (wordAt (keyExpand sboxEntry s.rconAt size s.key) i)) := by
  have hfits : 4 * (size.rounds + 1) ≤ s.ks.length := by rw [hinv.memory.ks_length]; cases size <;> decide
  rw [expandKey_ks hinv, writeEntries_inside ⟨Nat.zero_le i, hi⟩ (hi.trans_le hfits)]

/-- The words above the context stay as they were. -/
theorem expandKey_ks_outside (hi : 4 * (size.rounds + 1) ≤ i) : (expandKey size s).ks[i]? = s.ks[i]? := by
  rw [expandKey_ks hinv, writeEntries_outside fun h => hi.not_gt h.2]

/-- What a command that uses the context reads of it. -/
theorem expandKey_ksAt (hi : i < 4 * (size.rounds + 1)) :
    (expandKey size s).ksAt i = wordAt (keyExpand sboxEntry s.rconAt size s.key) i :=
  readEntry_some _ (expandKey_ks_inside hinv hi)

end Context

/-! ## The example of rule R110 -/

/-- The five words of the example, by the expansion of the example's four key words. -/
theorem keyExpand_example :
    [4, 40, 41, 42, 43].map (wordAt (expandWords sboxEntry State.reset.rconAt 4 40 0
        [0x00010203#32, 0x04050607#32, 0x08090A0B#32, 0x0C0D0E0F#32])) =
      [0xD6AA74FD#32, 0x13111D7F#32, 0xE3944A17#32, 0xF307A78B#32, 0x4D2B30C5#32] := by
  decide +kernel

/-- In a state of the invariant the round constants are those of reset (rule R25). -/
theorem rconAt_of_inv {s : State} (hinv : MachineInv s) : s.rconAt = State.reset.rconAt := by
  funext n
  rw [State.rconAt, State.rconAt, hinv.memory.rcon_constant]

/-- With the example's key, the context of 128 bits has the example's words. -/
theorem expandKey_ksAt_example {s : State} (hinv : MachineInv s)
    (hkey : s.key.words .k128 = [0x00010203#32, 0x04050607#32, 0x08090A0B#32, 0x0C0D0E0F#32]) :
    [4, 40, 41, 42, 43].map (expandKey .k128 s).ksAt =
      [0xD6AA74FD#32, 0x13111D7F#32, 0xE3944A17#32, 0xF307A78B#32, 0x4D2B30C5#32] := by
  have hbelow : ∀ i ∈ [4, 40, 41, 42, 43], i < 4 * (KeySize.rounds .k128 + 1) := by decide
  calc [4, 40, 41, 42, 43].map (expandKey .k128 s).ksAt
      = [4, 40, 41, 42, 43].map (wordAt (keyExpand sboxEntry s.rconAt .k128 s.key)) :=
        List.map_congr_left fun i hi => expandKey_ksAt hinv (hbelow i hi)
    _ = [0xD6AA74FD#32, 0x13111D7F#32, 0xE3944A17#32, 0xF307A78B#32, 0x4D2B30C5#32] := by
        rw [keyExpand, hkey, rconAt_of_inv hinv]
        exact keyExpand_example

/-- `STATUS` after a KEYEXP of 128 bits. -/
theorem expandKey_k128_status {s : State} (hinv : MachineInv s) :
    (complete 0#3 (expandKey .k128 s)).status = 0x00004A0E#32 := by
  simp [expandKey_eq hinv, State.status, KeySize.rounds, KeySize.keyWords]

end Sys2Proof.Machine

namespace Sys2Proof.Proofs

open Machine

/-- Settles O35: the selector is refused before anything is written. -/
theorem keyexpRefusesOtherSelectors : Obligations.KeyexpRefusesOtherSelectors :=
  fun s _ hksz => exec_keyexp_unsupported hksz s

/-- Settles O34: the next state is `expandKey` with the status fields of a completion, and the words of its
`KS` are those of the expansion by R34(e), which gives the table, and R25, which gives the round constants. -/
theorem keyexpMakesTheContext : Obligations.KeyexpMakesTheContext := by
  refine ⟨fun s ksz size hinv hksz => ?context, keyexpRefusesOtherSelectors, ?word,
    fun s hinv h0 h1 h2 h3 => ?exampleKey⟩
  case context =>
    have hsel : selectKeySize ksz = some size := by rcases hksz with ⟨rfl, rfl⟩ | ⟨rfl, rfl⟩ <;> rfl
    refine ⟨_, exec_keyexp hsel s, fun i hi => expandKey_ks_inside hinv hi, fun i hi => expandKey_ks_outside hinv hi,
      ?rounds, ?keyWords, ?frame⟩
    case rounds => cases size <;> rfl
    case keyWords => cases size <;> rfl
    case frame =>
      rw [expandKey_eq hinv]
      rfl
  case word =>
    intro ksz
    rw [decode_eq_ok_iff]
    revert ksz
    decide
  case exampleKey =>
    exact ⟨_, exec_keyexp rfl s, expandKey_k128_status hinv,
      expandKey_ksAt_example hinv (by rw [KeyRegs.words, h0, h1, h2, h3])⟩

end Sys2Proof.Proofs
end

section
/-!
PROOF. The command KEYINV (rules R120, R121): the state it leaves with a context and without one, and the
words of `KS` after it; and the obligation about it.
-/

namespace Sys2Proof.Machine

/-! ## The next state -/

/-- KEYINV completes without an error when there is a context. -/
theorem exec_keyinv {s : State} (hctx : s.ksv = true) :
    exec .keyinv s = .next (complete 0#3 (invertSchedule s)) := by
  rw [exec_eq, afterCommand, if_pos hctx]

/-- KEYINV fails with NoContext when there is none. -/
theorem exec_keyinv_noContext {s : State} (hnone : s.ksv = false) : exec .keyinv s = .next (complete 3#3 s) := by
  rw [exec_eq, afterCommand, if_neg (Bool.eq_false_iff.mp hnone)]

/-! ## The inverted schedule -/

section Inverter

variable {s : State} (hmem : MemoryWf s) {i : Nat}

include hmem in
/-- A middle word of the schedule becomes its `InvMixWord`. The four bits of `ROUNDS` keep the range of the
loop within the 60 words of `KS` (rules R24, R56). -/
theorem invertSchedule_ks_inside (hlo : 4 ≤ i) (hhi : i < 4 * s.rounds.toNat) :
    (invertSchedule s).ks[i]? = some (some (invMixWord (s.ksAt i))) := by
  have hfits : i < s.ks.length := by rw [hmem.ks_length]; omega
  rw [invertSchedule_ks, writeEntries_inside ⟨hlo, hhi⟩ hfits, keyInvert, if_pos ⟨hlo, hhi⟩]

/-- The words of the first round key, and those from the last one on, stay as they were. -/
theorem invertSchedule_ks_outside (hi : i < 4 ∨ 4 * s.rounds.toNat ≤ i) : (invertSchedule s).ks[i]? = s.ks[i]? := by
  rw [invertSchedule_ks, writeEntries_outside (by omega)]

include hmem in
/-- What is read of `KS` after KEYINV is `KeyInvert` of what was read before (rule R121). -/
theorem invertSchedule_ksAt : (invertSchedule s).ksAt i = keyInvert s.ksAt s.rounds.toNat i := by
  by_cases hmiddle : 4 ≤ i ∧ i < 4 * s.rounds.toNat
  · rw [keyInvert, if_pos hmiddle]
    exact readEntry_some _ (invertSchedule_ks_inside hmem hmiddle.1 hmiddle.2)
  · rw [keyInvert, if_neg hmiddle]
    exact readEntry_writeEntries_outside _ hmiddle

end Inverter

/-! ## The example of rule R120 -/

/-- The example's words before KEYINV, by the expansion of the example's four key words. -/
theorem keyExpand_keyinv_example :
    [0, 4, 39, 40].map (wordAt (expandWords sboxEntry State.reset.rconAt 4 40 0
        [0x00010203#32, 0x04050607#32, 0x08090A0B#32, 0x0C0D0E0F#32])) =
      [0x00010203#32, 0xD6AA74FD#32, 0xBE2C974E#32, 0x13111D7F#32] := by
  decide +kernel

/-- The two of them that KEYINV changes. -/
theorem invMixWord_example :
    invMixWord 0xD6AA74FD#32 = 0x8C56DFF0#32 ∧ invMixWord 0xBE2C974E#32 = 0x00F7BF03#32 := by decide

section Example

variable {s : State} (hinv : MachineInv s)
  (hkey : s.key.words .k128 = [0x00010203#32, 0x04050607#32, 0x08090A0B#32, 0x0C0D0E0F#32])
include hinv

/-- The context that a KEYEXP leaves keeps the form of the memories. -/
theorem expandKey_memoryWf (size : KeySize) : MemoryWf (expandKey size s) :=
  setContext_memoryWf _ _ (ensureTables_memoryWf hinv.memory)

include hkey

/-- The example's words in the context that KEYEXP makes. -/
theorem expandKey_ksAt_keyinv_example :
    (expandKey .k128 s).ksAt 0 = 0x00010203#32 ∧ (expandKey .k128 s).ksAt 4 = 0xD6AA74FD#32 ∧
      (expandKey .k128 s).ksAt 39 = 0xBE2C974E#32 ∧ (expandKey .k128 s).ksAt 40 = 0x13111D7F#32 := by
  have hbelow : ∀ i ∈ [0, 4, 39, 40], i < 4 * (KeySize.rounds .k128 + 1) := by decide
  have hwords : [0, 4, 39, 40].map (expandKey .k128 s).ksAt =
      [0x00010203#32, 0xD6AA74FD#32, 0xBE2C974E#32, 0x13111D7F#32] := by
    rw [List.map_congr_left fun i hi => expandKey_ksAt hinv (hbelow i hi), keyExpand, hkey, rconAt_of_inv hinv]
    exact keyExpand_keyinv_example
  simpa using hwords

/-- The same words after KEYINV: those of the first and the last round key stay, the other two are mixed. -/
theorem invertSchedule_ksAt_keyinv_example :
    [0, 4, 39, 40].map (invertSchedule (complete 0#3 (expandKey .k128 s))).ksAt =
      [0x00010203#32, 0x8C56DFF0#32, 0x00F7BF03#32, 0x13111D7F#32] := by
  have hmem : MemoryWf (complete 0#3 (expandKey .k128 s)) :=
    (expandKey_memoryWf hinv .k128).of_eq rfl rfl rfl rfl
  have hrounds : (expandKey .k128 s).rounds.toNat = 10 := rfl
  obtain ⟨h0, h4, h39, h40⟩ := expandKey_ksAt_keyinv_example hinv hkey
  obtain ⟨hmix4, hmix39⟩ := invMixWord_example
  simp [invertSchedule_ksAt hmem, hrounds, keyInvert, h0, h4, h39, h40, hmix4, hmix39]

end Example

end Sys2Proof.Machine

namespace Sys2Proof.Proofs

open Machine

/-- Settles O36: the next state is `invertSchedule` with the status fields of a completion, and its `KS` differs
from the one before in the range of the loop only; the example follows KEYEXP's context through it. -/
theorem keyinvMixesTheMiddleWords : Obligations.KeyinvMixesTheMiddleWords := by
  refine ⟨fun s hinv hctx => ⟨_, exec_keyinv hctx, ?middle, ?others, rfl⟩, ?noContext, decode_encode .keyinv,
    ?exampleKey⟩
  case middle => exact fun i hlo hhi => invertSchedule_ks_inside hinv.memory hlo hhi
  case others => exact fun i hi => invertSchedule_ks_outside hi
  case noContext => exact fun s hnone => exec_keyinv_noContext hnone
  case exampleKey =>
    intro s hinv h0 h1 h2 h3
    have hkey : s.key.words .k128 = [0x00010203#32, 0x04050607#32, 0x08090A0B#32, 0x0C0D0E0F#32] := by
      rw [KeyRegs.words, h0, h1, h2, h3]
    obtain ⟨-, hfirst, hlast, -⟩ := expandKey_ksAt_keyinv_example hinv hkey
    refine ⟨_, _, exec_keyexp rfl s, exec_keyinv rfl, ?_, invertSchedule_ksAt_keyinv_example hinv hkey⟩
    rw [complete_ksAt, hfirst, hlast]

end Sys2Proof.Proofs
end

section
/-!
PROOF. The command ENCBLK (rules R125, R126): the state it leaves with a context and without one, and the known
answer; and the obligation about it.
-/

namespace Sys2Proof.Machine

/-! ## The next state -/

/-- ENCBLK completes without an error when there is a context. -/
theorem exec_encblk {s : State} (hctx : s.ksv = true) :
    exec .encblk s = .next (complete 0#3 (encryptInPlace s)) := by
  rw [exec_eq, afterCommand, if_pos hctx]

/-- ENCBLK fails with NoContext when there is none. -/
theorem exec_encblk_noContext {s : State} (hnone : s.ksv = false) : exec .encblk s = .next (complete 3#3 s) := by
  rw [exec_eq, afterCommand, if_neg (Bool.eq_false_iff.mp hnone)]

/-- With a valid context the tables are there already (rules R34(c), R106), so ENCBLK writes the block only, and
what it reads of `SBOX` is the generated table (rule R34(e)). -/
theorem encryptInPlace_of_context {s : State} (hinv : MachineInv s) (hctx : s.ksv = true) :
    encryptInPlace s = { s with blk := encryptBlock sboxEntry s.ksAt s.rounds.toNat s.blk } := by
  rw [encryptInPlace, (tables_of_inv hinv).1, ensureTables_of_context hinv hctx]

/-! ## The example of rule R125 -/

/-- The known answer of 128 bits, by the expansion of the example's four key words. -/
theorem encryptBlock_example :
    encryptBlock sboxEntry
        (wordAt (expandWords sboxEntry State.reset.rconAt 4 40 0
          [0x00010203#32, 0x04050607#32, 0x08090A0B#32, 0x0C0D0E0F#32])) 10
        ⟨0x00112233#32, 0x44556677#32, 0x8899AABB#32, 0xCCDDEEFF#32⟩ =
      ⟨0x69C4E0D8#32, 0x6A7B0430#32, 0xD8CDB780#32, 0x70B4C55A#32⟩ := by
  decide +kernel

end Sys2Proof.Machine

namespace Sys2Proof.Proofs

open Machine

/-- Settles O39: the next state is `encryptInPlace` with the status fields of a completion, which in a valid context
writes the block alone; the example's key words are all that its expansion reads of the key. -/
theorem encblkEncryptsInPlace : Obligations.EncblkEncryptsInPlace := by
  refine ⟨fun s hinv hctx => ?context, fun s hnone => exec_encblk_noContext hnone, decode_encode .encblk,
    fun key h0 h1 h2 h3 => ?exampleKey⟩
  case context =>
    rw [exec_encblk hctx, encryptInPlace_of_context hinv hctx]
    rfl
  case exampleKey =>
    rw [keyExpand, KeyRegs.words, h0, h1, h2, h3]
    exact encryptBlock_example

end Sys2Proof.Proofs
end

section
/-!
PROOF. The command DECBLK (rules R135, R136, R138): the state it leaves with a context and without one, and the
known answer under an inverted schedule; and the obligation about it.
-/

namespace Sys2Proof.Machine

/-! ## The next state -/

/-- DECBLK completes without an error when there is a context, whichever schedule it holds (rule R138). -/
theorem exec_decblk {s : State} (hctx : s.ksv = true) :
    exec .decblk s = .next (complete 0#3 (decryptInPlace s)) := by
  rw [exec_eq, afterCommand, if_pos hctx]

/-- DECBLK fails with NoContext when there is none. -/
theorem exec_decblk_noContext {s : State} (hnone : s.ksv = false) : exec .decblk s = .next (complete 3#3 s) := by
  rw [exec_eq, afterCommand, if_neg (Bool.eq_false_iff.mp hnone)]

/-- With a valid context the tables are there already (rules R34(c), R106), so DECBLK writes the block only, and
what it reads of `ISBOX` is the generated table (rule R34(e)). -/
theorem decryptInPlace_of_context {s : State} (hinv : MachineInv s) (hctx : s.ksv = true) :
    decryptInPlace s = { s with blk := decryptBlock isboxEntry s.ksAt s.rounds.toNat s.blk } := by
  rw [decryptInPlace, (tables_of_inv hinv).2, ensureTables_of_context hinv hctx]

/-! ## The example of rule R135 -/

/-- The known answer of 128 bits, by `KeyInvert` of the expansion of the example's four key words. -/
theorem decryptBlock_example :
    decryptBlock isboxEntry
        (keyInvert (wordAt (expandWords sboxEntry State.reset.rconAt 4 40 0
          [0x00010203#32, 0x04050607#32, 0x08090A0B#32, 0x0C0D0E0F#32])) 10) 10
        ⟨0x69C4E0D8#32, 0x6A7B0430#32, 0xD8CDB780#32, 0x70B4C55A#32⟩ =
      ⟨0x00112233#32, 0x44556677#32, 0x8899AABB#32, 0xCCDDEEFF#32⟩ := by
  decide +kernel

end Sys2Proof.Machine

namespace Sys2Proof.Proofs

open Machine

/-- Settles O40: the next state is `decryptInPlace` with the status fields of a completion, which in a valid context
writes the block alone; the example's key words are all that its expansion reads of the key. -/
theorem decblkDecryptsInPlace : Obligations.DecblkDecryptsInPlace := by
  refine ⟨fun s hinv hctx => ?context, fun s hnone => exec_decblk_noContext hnone, decode_encode .decblk,
    fun key h0 h1 h2 h3 => ?exampleKey⟩
  case context =>
    rw [exec_decblk hctx, decryptInPlace_of_context hinv hctx]
    rfl
  case exampleKey =>
    rw [keyExpand, KeyRegs.words, h0, h1, h2, h3]
    exact decryptBlock_example

end Sys2Proof.Proofs
end

section
/-!
PROOF. The public operations ENCRYPT and DECRYPT (rules R145, R146): the state each leaves with the selector of
128 bits, its failure with another selector, and the known answers; and the obligations about them.
-/

namespace Sys2Proof.Machine

/-! ## The next state -/

/-- ENCRYPT of a 128-bit key completes without an error, whatever the state. -/
theorem exec_encrypt (s : State) : exec (.encrypt 0#2) s = .next (complete 0#3 (encryptPublic s)) :=
  exec_eq (.encrypt 0#2) s

/-- DECRYPT of a 128-bit key completes without an error, whatever the state. -/
theorem exec_decrypt (s : State) : exec (.decrypt 0#2) s = .next (complete 0#3 (decryptPublic s)) :=
  exec_eq (.decrypt 0#2) s

/-- A command whose selector is refused fails with InvalidKeySize, whatever the state. -/
theorem exec_of_refusesKeySize {i : Instr} (h : refusesKeySize i = true) (s : State) :
    exec i s = .next (complete 1#3 s) := by
  rw [exec_eq, afterCommand_of_refusesKeySize h]

/-- With the tables generated, a public operation expands `KEY[0..3]` with the table of rule R104. -/
theorem publicSchedule_generateTables (s : State) :
    publicSchedule (generateTables s) = wordAt (keyExpand sboxEntry s.rconAt .k128 s.key) := by
  rw [publicSchedule, sboxAt_of_tables (generateTables_sbox s)]
  rfl

section Writes

variable {s : State} (htables : s.tv = true → s.sbox = genSbox.map some ∧ s.isbox = genIsbox.map some)
include htables

/-- When `TV` says what the tables hold, `EnsureTables` leaves what a generation would (rule R106). -/
theorem ensureTables_eq_generateTables : ensureTables s = generateTables s := ensureTables_eq htables

/-- ENCRYPT writes the ciphertext under the schedule of `KEY[0..3]`, generates the tables and ends the context. -/
theorem encryptPublic_eq :
    encryptPublic s = destroyContext { generateTables s with
      blk := encryptBlock sboxEntry (wordAt (keyExpand sboxEntry s.rconAt .k128 s.key)) 10 s.blk } := by
  rw [encryptPublic, ensureTables_eq_generateTables htables, publicSchedule_generateTables,
    sboxAt_of_tables (generateTables_sbox s), generateTables_blk]
  rfl

/-- DECRYPT writes the plaintext under the inverted schedule of `KEY[0..3]`, generates the tables and ends the
context. -/
theorem decryptPublic_eq :
    decryptPublic s = destroyContext { generateTables s with
      blk := decryptBlock isboxEntry (keyInvert (wordAt (keyExpand sboxEntry s.rconAt .k128 s.key)) 10) 10 s.blk } := by
  rw [decryptPublic, ensureTables_eq_generateTables htables, publicSchedule_generateTables,
    isboxAt_of_tables (generateTables_isbox s), generateTables_blk]
  rfl

theorem encryptPublic_blk :
    (encryptPublic s).blk =
      encryptBlock sboxEntry (wordAt (keyExpand sboxEntry s.rconAt .k128 s.key)) 10 s.blk := by
  rw [encryptPublic_eq htables, destroyContext_blk]

theorem decryptPublic_blk :
    (decryptPublic s).blk =
      decryptBlock isboxEntry (keyInvert (wordAt (keyExpand sboxEntry s.rconAt .k128 s.key)) 10) 10 s.blk := by
  rw [decryptPublic_eq htables, destroyContext_blk]

/-- `STATUS` after a successful ENCRYPT: `DONE` and `TV`, no context and no error. -/
theorem encryptPublic_status : (complete 0#3 (encryptPublic s)).status = 0x00000006#32 := by
  simp [encryptPublic_eq htables, State.status]

end Writes

/-! ## The examples of rules R145 and R146 -/

/-- The expansion reads nothing of the state but the four key words, the round constants being those of reset
(rule R25). -/
theorem keyExpand_k128_of_exampleKey {s : State} (hinv : MachineInv s) (h0 : s.key.k0 = 0x00010203#32)
    (h1 : s.key.k1 = 0x04050607#32) (h2 : s.key.k2 = 0x08090A0B#32) (h3 : s.key.k3 = 0x0C0D0E0F#32) :
    keyExpand sboxEntry s.rconAt .k128 s.key =
      expandWords sboxEntry State.reset.rconAt 4 40 0
        [0x00010203#32, 0x04050607#32, 0x08090A0B#32, 0x0C0D0E0F#32] := by
  rw [keyExpand, KeyRegs.words, h0, h1, h2, h3, rconAt_of_inv hinv]
  rfl

/-- The known answer of the key and the block that reset leaves, all zeros. -/
theorem encryptBlock_reset_example :
    encryptBlock sboxEntry (wordAt (keyExpand sboxEntry State.reset.rconAt .k128 State.reset.key)) 10
        State.reset.blk =
      ⟨0x66E94BD4#32, 0xEF8A2C3B#32, 0x884CFA59#32, 0xCA342B2E#32⟩ := by
  decide +kernel

end Sys2Proof.Machine

namespace Sys2Proof.Proofs

open Machine

/-- Settles O44: the next state is `encryptPublic` with the status fields of a completion. By R34(e) the tables it
reads are the generated ones, in a state of the invariant and straight after reset alike. -/
theorem encryptIsThePublicOperation : Obligations.EncryptIsThePublicOperation := by
  refine ⟨fun s hinv => ⟨_, exec_encrypt s, ?frame⟩, fun s ksz hksz => ?refused, ?word,
    fun s hinv h0 h1 h2 h3 hblk => ⟨_, exec_encrypt s, encryptPublic_status hinv.tables, ?exampleKey⟩,
    ⟨_, exec_encrypt State.reset, ?afterReset⟩⟩
  case frame =>
    rw [encryptPublic_eq hinv.tables]
    rfl
  case refused => exact exec_of_refusesKeySize (by revert ksz; decide) s
  case word => exact fun ksz => decode_eq_ok_iff.mpr (by revert ksz; decide)
  case exampleKey =>
    rw [complete_blk, encryptPublic_blk hinv.tables, keyExpand_k128_of_exampleKey hinv h0 h1 h2 h3, hblk]
    exact encryptBlock_example
  case afterReset =>
    rw [complete_blk, encryptPublic_blk fun htv => absurd htv Bool.false_ne_true]
    exact encryptBlock_reset_example

/-- Settles O45: the next state is `decryptPublic` with the status fields of a completion, whose one `KeyInvert` is
between the schedule and the engine; the tables are the generated ones by R34(e). -/
theorem decryptIsThePublicOperation : Obligations.DecryptIsThePublicOperation := by
  refine ⟨fun s hinv => ⟨_, exec_decrypt s, ?frame⟩, fun s ksz hksz => ?refused, ?word,
    fun s hinv h0 h1 h2 h3 hblk => ⟨_, exec_decrypt s, ?exampleKey⟩⟩
  case frame =>
    rw [decryptPublic_eq hinv.tables]
    rfl
  case refused => exact exec_of_refusesKeySize (by revert ksz; decide) s
  case word => exact fun ksz => decode_eq_ok_iff.mpr (by revert ksz; decide)
  case exampleKey =>
    rw [complete_blk, decryptPublic_blk hinv.tables, keyExpand_k128_of_exampleKey hinv h0 h1 h2 h3, hblk]
    exact decryptBlock_example

end Sys2Proof.Proofs
end

section
/-!
PROOF. The outcome of a command (rules R154, R156, R158, R179): the checks a completion makes and what it writes
where one of them fails; what becomes of `DONE` and `ERR` on an idle core; and the obligations about them.
-/

namespace Sys2Proof.Machine

/-! ## The check for a context (rule R154) -/

/-- The commands that use the context and do not make one. -/
def contextCommands : List Instr := [.keyinv, .encblk, .decblk]

/-- Without a context each of them completes with NoContext and writes nothing but the status fields. -/
theorem exec_of_noContext {i : Instr} {s : State} (hi : i ∈ contextCommands) (hnone : s.ksv = false) :
    exec i s = .next (complete 3#3 s) := by
  simp only [contextCommands, List.mem_cons, List.not_mem_nil, or_false] at hi
  rcases hi with rfl | rfl | rfl
  · exact exec_keyinv_noContext hnone
  · exact exec_encblk_noContext hnone
  · exact exec_decblk_noContext hnone

/-! ## A completion whose checks do not fail (rules R32, R156) -/

/-- A command with a supported selector, and with a context where it needs one, completes with the code 0. -/
theorem exec_of_checks_pass {i : Instr} {s : State} (hsize : refusesKeySize i = false)
    (hctx : i ∈ contextCommands → s.ksv = true) : ∃ t, exec i s = .next (complete 0#3 t) := by
  cases i with
  | gentab => exact ⟨_, exec_gentab s⟩
  | keyexp ksz =>
    obtain ⟨size, hsel⟩ : ∃ size, selectKeySize ksz = some size :=
      Option.isSome_iff_exists.mp (Option.isNone_eq_false_iff.mp hsize)
    exact ⟨_, exec_keyexp hsel s⟩
  | keyinv => exact ⟨_, exec_keyinv (hctx (by decide))⟩
  | encblk => exact ⟨_, exec_encblk (hctx (by decide))⟩
  | decblk => exact ⟨_, exec_decblk (hctx (by decide))⟩
  | encrypt ksz =>
    obtain rfl : ksz = 0#2 := bne_eq_false_iff_eq.mp hsize
    exact ⟨_, exec_encrypt s⟩
  | decrypt ksz =>
    obtain rfl : ksz = 0#2 := bne_eq_false_iff_eq.mp hsize
    exact ⟨_, exec_decrypt s⟩

/-! ## The words of the commands that can fail (rules R63, R156) -/

/-- The words of the commands that need a context. -/
def contextWords : List Word := [0x03#32, 0x04#32, 0x05#32]

theorem encode_mem_contextWords_iff (i : Instr) : encode i ∈ contextWords ↔ i ∈ contextCommands := by
  cases i with
  | gentab | keyinv | encblk | decblk => decide
  | keyexp ksz | encrypt ksz | decrypt ksz => revert ksz; decide

theorem contextWords_subset_legalWords : contextWords ⊆ legalWords := by decide

theorem invalidKeySizeWords_subset_legalWords : invalidKeySizeWords ⊆ legalWords := by decide

/-- With no event waiting and `rst` released, a busy core runs the command whose word is pending. -/
theorem step_of_pending_encode {s : State} {i : Instr} (hrst : s.rst = false) (hbusy : s.busy = true)
    (hpend : s.pend = some (encode i)) (hport : s.port = []) : step s = exec i s := by
  rw [step_of_pending hrst hbusy hpend hport, completePending_of_decode (decode_encode i)]

/-! ## `DONE` and `ERR` on an idle core (rules R158, R163, R170, R179) -/

/-- An idle core's turn changes nothing. -/
theorem coreTurn_idle {s : State} (hidle : s.busy = false) : coreTurn s = .next s := by
  simp [coreTurn, hidle]

theorem assertReset_atReset (s : State) : AtReset (assertReset s) :=
  ⟨rfl, rfl, rfl, rfl, rfl, rfl, rfl, rfl, rfl, rfl, rfl, rfl, rfl⟩

/-- The core stays idle and the outcome of the last command stands. -/
def OutcomeHeld (s t : State) : Prop := t.done = s.done ∧ t.err = s.err ∧ t.busy = false

/-- A write on an idle core leaves the outcome of the last command, or is accepted as the next one. -/
theorem regWrite_outcome {s : State} (hidle : s.busy = false) (idx : RegIdx) (v : Word) :
    OutcomeHeld s (regWrite idx v s) ∨ regWrite idx v s = accept v s := by
  rcases regWrite_cases idx v s with h | ⟨-, -, ⟨-, h⟩ | ⟨j, h⟩ | ⟨j, h⟩⟩
  · rw [h]; exact .inl ⟨rfl, rfl, hidle⟩
  · exact .inr h
  · rw [h]; exact .inl ⟨rfl, rfl, hidle⟩
  · rw [h]; exact .inl ⟨rfl, rfl, hidle⟩

/-- What an event on an idle core makes of the outcome of the last command. -/
theorem runEvent_outcome {e : Event} {s t : State} (hidle : s.busy = false) (h : runEvent e s = .next t) :
    OutcomeHeld s t ∨ (∃ w, t = accept w s) ∨ t = assertReset s := by
  by_cases hcore : e = .core
  · rw [hcore, runEvent, coreTurn_idle hidle] at h
    cases h
    exact .inl ⟨rfl, rfl, hidle⟩
  · rcases runEvent_cases s hcore with ⟨idx, hrun⟩ | ⟨idx, v, hrun⟩ | ⟨-, hrun⟩ | ⟨-, hrun⟩ | ⟨_, _, -, -, hrun⟩ <;>
      rw [hrun] at h <;> cases h
    · exact .inl ⟨rfl, rfl, hidle⟩
    · exact (regWrite_outcome hidle idx v).imp_right fun hwrite => .inl ⟨v, hwrite⟩
    · exact .inr (.inr rfl)
    · exact .inl ⟨rfl, rfl, hidle⟩

end Sys2Proof.Machine

namespace Sys2Proof.Proofs

open Machine

/-- Settles O18: of what an event on an idle core can do, only acceptance and reset touch `DONE` and `ERR`. -/
theorem outcomeHeldUntilNextCommand : Obligations.OutcomeHeldUntilNextCommand := by
  intro s t hidle hstep
  rcases step_cases s with ⟨-, h⟩ | ⟨e, rest, -, h⟩ <;> rw [h] at hstep
  · rw [coreTurn_idle hidle] at hstep
    cases hstep
    exact .inl ⟨rfl, rfl, hidle⟩
  · rcases runEvent_outcome (s := { s with port := rest }) hidle hstep with hheld | ⟨w, rfl⟩ | rfl
    · exact .inl hheld
    · exact .inr (.inl ⟨w, rfl, rfl, rfl, rfl⟩)
    · exact .inr (.inr (assertReset_atReset _))

/-- Settles O20: an illegal word fails in the decoder; the words of the other clauses are words of commands, and
each clause is the command's own check. -/
theorem completionChecksInOrder : Obligations.CompletionChecksInOrder := by
  intro s w hrst hbusy hpend hport failed badKeySize needsContext
  refine ⟨fun hillegal => ?illegal, fun hsize => ?keySize, fun ⟨hneeds, hnone⟩ => ?noContext,
    fun ⟨⟨i, hdecode⟩, hsize, hctx⟩ => ?success⟩
  case illegal => exact (step_of_pending hrst hbusy hpend hport).trans (completePending_of_illegal hillegal s)
  case keySize =>
    obtain ⟨i, rfl⟩ := mem_legalWords_iff.mp (invalidKeySizeWords_subset_legalWords hsize)
    exact (step_of_pending_encode hrst hbusy hpend hport).trans
      (exec_of_refusesKeySize ((refusesKeySize_iff i).mpr hsize) s)
  case noContext =>
    obtain ⟨i, rfl⟩ := mem_legalWords_iff.mp (contextWords_subset_legalWords hneeds)
    exact (step_of_pending_encode hrst hbusy hpend hport).trans
      (exec_of_noContext ((encode_mem_contextWords_iff i).mp hneeds) hnone)
  case success =>
    obtain rfl := encode_of_decode hdecode
    have hsupported : refusesKeySize i = false := Bool.eq_false_iff.mpr fun h => hsize ((refusesKeySize_iff i).mp h)
    have hcontext (hi : i ∈ contextCommands) : s.ksv = true :=
      Bool.of_not_eq_false fun hnone => hctx ⟨(encode_mem_contextWords_iff i).mpr hi, hnone⟩
    obtain ⟨t, ht⟩ := exec_of_checks_pass hsupported hcontext
    exact ⟨complete 0#3 t, (step_of_pending_encode hrst hbusy hpend hport).trans ht, rfl, rfl, rfl, rfl⟩

/-- Settles O41: the state that `complete` leaves is written out in the statement. -/
theorem noContextFails : Obligations.NoContextFails :=
  fun _ hnone _ hi => exec_of_noContext hi hnone

end Sys2Proof.Proofs
end

section
/-!
PROOF. The decoder against the encoder, and against the match and the mask of each command (rules R60 to R64);
and the obligations about them.
-/

namespace Sys2Proof

/-! ## The fields of three fields side by side (rule R60) -/

section Fields

variable (rsv : BitVec 26) (ksz : BitVec 2) (opc : BitVec 4)

@[simp] theorem opcField_append : opcField (rsv ++ ksz ++ opc) = opc := BitVec.extractLsb'_append_eq_right

@[simp] theorem kszField_append : kszField (rsv ++ ksz ++ opc) = ksz := by
  rw [kszField, BitVec.extractLsb'_append_eq_of_le (by decide)]
  exact BitVec.extractLsb'_append_eq_right

@[simp] theorem rsvField_append : rsvField (rsv ++ ksz ++ opc) = rsv := by
  rw [rsvField, BitVec.extractLsb'_append_eq_of_le (by decide)]
  exact BitVec.extractLsb'_append_eq_left

end Fields

/-- A word is an encoded one exactly when its reserved bits are 0 and the other two fields are the encoded ones. -/
theorem encodeFields_eq_iff {w : Word} {opc : BitVec 4} {ksz : BitVec 2} :
    encodeFields opc ksz = w ↔ rsvField w = 0#26 ∧ kszField w = ksz ∧ opcField w = opc := by
  constructor
  · rintro rfl
    exact ⟨rsvField_append .., kszField_append .., opcField_append ..⟩
  · rintro ⟨hrsv, rfl, rfl⟩
    exact encodeFields_fields hrsv

/-! ## Match and mask (rule R64) -/

/-- The mask of a command without a key size keeps the whole word. -/
theorem and_fullMask (w : Word) : w &&& 0xFFFFFFFF#32 = w := BitVec.and_allOnes

/-- The mask of a command with a key size clears `KSZ` and keeps the other two fields. -/
theorem and_sizedMask (w : Word) : w &&& 0xFFFFFFCF#32 = rsvField w ++ 0#2 ++ opcField w := by
  have hmask : 0xFFFFFFCF#32 = BitVec.allOnes 26 ++ 0#2 ++ BitVec.allOnes 4 := rfl
  conv_lhs => rw [← fields_append w, hmask]
  rw [BitVec.and_append, BitVec.and_append, BitVec.and_allOnes, BitVec.and_allOnes, BitVec.and_zero]

/-- Under that mask a word matches an operation exactly when it is its encoding with some key size. -/
theorem and_sizedMask_eq_iff {w : Word} {opc : BitVec 4} :
    w &&& 0xFFFFFFCF#32 = encodeFields opc 0#2 ↔ ∃ ksz, encodeFields opc ksz = w := by
  rw [and_sizedMask, eq_comm, encodeFields_eq_iff, rsvField_append, kszField_append, opcField_append]
  constructor
  · rintro ⟨hrsv, -, hopc⟩
    exact ⟨kszField w, encodeFields_eq_iff.mpr ⟨hrsv, rfl, hopc⟩⟩
  · rintro ⟨ksz, henc⟩
    obtain ⟨hrsv, -, hopc⟩ := encodeFields_eq_iff.mp henc
    exact ⟨hrsv, rfl, hopc⟩

/-- A word decodes to a command of a fixed word exactly when it matches that word under the full mask. -/
theorem decode_iff_fullMask (w : Word) (i : Instr) : decode w = .ok i ↔ w &&& 0xFFFFFFFF#32 = encode i := by
  rw [and_fullMask, decode_eq_ok_iff, eq_comm]

/-- A word decodes to an operation with some key size exactly when it matches under the mask without `KSZ`. -/
theorem exists_decode_iff_sizedMask {w : Word} {opc : BitVec 4} {command : BitVec 2 → Instr}
    (henc : ∀ ksz, encode (command ksz) = encodeFields opc ksz) :
    (∃ ksz, decode w = .ok (command ksz)) ↔ w &&& 0xFFFFFFCF#32 = encodeFields opc 0#2 := by
  simp only [decode_eq_ok_iff, henc, and_sizedMask_eq_iff]

/-- The match and the mask of each command of rule R64. -/
def commandPatterns : List (Word × Word) :=
  [(0x00000001#32, 0xFFFFFFFF#32), (0x00000002#32, 0xFFFFFFCF#32), (0x00000003#32, 0xFFFFFFFF#32),
    (0x00000004#32, 0xFFFFFFFF#32), (0x00000005#32, 0xFFFFFFFF#32), (0x00000006#32, 0xFFFFFFCF#32),
    (0x00000007#32, 0xFFFFFFCF#32)]

/-- The decoder by match and mask, one equivalence for each row of the table of rule R64. -/
theorem decode_iff_patterns (w : Word) :
    (decode w = .ok .gentab ↔ w &&& 0xFFFFFFFF#32 = 0x00000001#32) ∧
    ((∃ k, decode w = .ok (.keyexp k)) ↔ w &&& 0xFFFFFFCF#32 = 0x00000002#32) ∧
    (decode w = .ok .keyinv ↔ w &&& 0xFFFFFFFF#32 = 0x00000003#32) ∧
    (decode w = .ok .encblk ↔ w &&& 0xFFFFFFFF#32 = 0x00000004#32) ∧
    (decode w = .ok .decblk ↔ w &&& 0xFFFFFFFF#32 = 0x00000005#32) ∧
    ((∃ k, decode w = .ok (.encrypt k)) ↔ w &&& 0xFFFFFFCF#32 = 0x00000006#32) ∧
    ((∃ k, decode w = .ok (.decrypt k)) ↔ w &&& 0xFFFFFFCF#32 = 0x00000007#32) :=
  ⟨decode_iff_fullMask w .gentab, exists_decode_iff_sizedMask (opc := 2#4) fun _ => rfl, decode_iff_fullMask w .keyinv,
    decode_iff_fullMask w .encblk, decode_iff_fullMask w .decblk,
    exists_decode_iff_sizedMask (opc := 6#4) fun _ => rfl,
    exists_decode_iff_sizedMask (opc := 7#4) fun _ => rfl⟩

/-- A pattern selects the word exactly when the word decodes to a command. -/
theorem exists_selected_iff (w : Word) :
    (∃ p ∈ commandPatterns, w &&& p.2 = p.1) ↔ ∃ i, decode w = .ok i := by
  obtain ⟨h1, h2, h3, h4, h5, h6, h7⟩ := decode_iff_patterns w
  simp only [commandPatterns, List.mem_cons, List.not_mem_nil, or_false, exists_eq_or_imp, exists_eq_left,
    ← h1, ← h2, ← h3, ← h4, ← h5, ← h6, ← h7]
  constructor
  · rintro (h | ⟨k, h⟩ | h | h | h | ⟨k, h⟩ | ⟨k, h⟩) <;> exact ⟨_, h⟩
  · rintro ⟨i, h⟩
    cases i <;> simp [h]

/-- The key size of a command is `KSZ` of its word. -/
theorem kszField_of_decode {w : Word} {k : BitVec 2}
    (h : decode w = .ok (.keyexp k) ∨ decode w = .ok (.encrypt k) ∨ decode w = .ok (.decrypt k)) :
    k = kszField w := by
  rcases h with h | h | h <;> exact (encodeFields_eq_iff.mp (encode_of_decode h)).2.1.symm

/-- Each mask keeps the operation code, so a word that a pattern selects has the pattern's code. -/
theorem opcField_of_selected {w : Word} {p : Word × Word} (hp : p ∈ commandPatterns) (hw : w &&& p.2 = p.1) :
    opcField p.1 = opcField w := by
  have hmask : ∀ p ∈ commandPatterns, opcField p.2 = BitVec.allOnes 4 := by simp [commandPatterns, opcField]
  have hand : opcField (w &&& p.2) = opcField w &&& opcField p.2 := by simp only [opcField, BitVec.extractLsb'_and]
  rw [← hw, hand, hmask p hp, BitVec.and_allOnes]

/-- The patterns' operation codes differ, so at most one of them selects a word. -/
theorem commandPatterns_countP_le_one (w : Word) :
    commandPatterns.countP (fun p => decide (w &&& p.2 = p.1)) ≤ 1 := by
  have hnodup : (commandPatterns.map fun p => opcField p.1).Nodup := by decide
  calc commandPatterns.countP (fun p => decide (w &&& p.2 = p.1))
      ≤ commandPatterns.countP ((· == opcField w) ∘ fun p => opcField p.1) :=
        List.countP_mono_left fun p hp hw => beq_iff_eq.mpr (opcField_of_selected hp (of_decide_eq_true hw))
    _ = (commandPatterns.map fun p => opcField p.1).count (opcField w) := List.countP_map.symm
    _ ≤ 1 := List.nodup_iff_count_le_one.mp hnodup _

end Sys2Proof

namespace Sys2Proof.Proofs

open Machine

/-- Settles O1: seven of the words are words of commands; the decoder's tests refuse the other ones. -/
theorem sampleWordsDecode : Obligations.SampleWordsDecode :=
  ⟨decode_encode .gentab, decode_encode (.keyexp 0#2), decode_encode (.keyexp 3#2), decode_encode .keyinv,
    decode_encode .encblk, decode_encode .decblk, decode_encode (.encrypt 2#2), decode_encode (.decrypt 1#2),
    rfl, rfl, rfl, decode_of_reserved (by decide)⟩

/-- Settles O2: every command is well formed, and the decoder's answers are the words' commands. -/
theorem decodeIsInverseOfEncode : Obligations.DecodeIsInverseOfEncode := by
  intro w i
  have hwf : i.wellFormed = true := by cases i <;> rfl
  rw [decode_eq_ok_iff]
  exact and_iff_right hwf

/-- Settles O4: the seven rows are `decode_iff_patterns`; the operation codes of the patterns differ; and no
pattern selects a word exactly when no command has it. -/
theorem matchAndMaskSelectTheCommand : Obligations.MatchAndMaskSelectTheCommand := by
  refine ⟨fun w => ?rows, fun w => ⟨commandPatterns_countP_le_one w, ?illegal⟩⟩
  case rows =>
    obtain ⟨h1, h2, h3, h4, h5, h6, h7⟩ := decode_iff_patterns w
    exact ⟨h1, h2, h3, h4, h5, h6, h7, fun _ => kszField_of_decode⟩
  case illegal =>
    have hnone := not_congr (exists_selected_iff w)
    push Not at hnone
    refine Iff.trans ?_ hnone
    simp only [commandPatterns, List.countP_eq_zero, decide_eq_true_eq, ne_eq]

end Sys2Proof.Proofs
end

section
/-!
PROOF. The machine invariant (rules R19, R24, R25, R34): it holds right after reset, every operation of the
model keeps it, and so does every step; and the obligations about the invariant and about faults.
-/

namespace Sys2Proof.Machine

/-! ## What a command writes before it completes -/

/-- The writes of a command whose checks pass, before the status fields of its completion (rule R32). -/
def commandWrites (i : Instr) (s : State) : State :=
  match i with
  | .gentab => generateTables s
  | .keyexp ksz => ((selectKeySize ksz).map fun size => expandKey size s).getD s
  | .keyinv => invertSchedule s
  | .encblk => encryptInPlace s
  | .decblk => decryptInPlace s
  | .encrypt _ => encryptPublic s
  | .decrypt _ => decryptPublic s

/-- The checks of a completion in their order, and its writes where none of them fails (rules R32, R156, R157). -/
theorem afterCommand_eq (i : Instr) (s : State) :
    afterCommand i s =
      if refusesKeySize i then complete 1#3 s
      else if i ∈ contextCommands ∧ s.ksv = false then complete 3#3 s
      else complete 0#3 (commandWrites i s) := by
  split_ifs with hsize hnone
  · exact afterCommand_of_refusesKeySize hsize s
  · exact (exec_next_iff.mp (exec_of_noContext hnone.1 hnone.2)).symm
  · have hksv (hi : i ∈ contextCommands) : s.ksv = true := Bool.of_not_eq_false fun h => hnone ⟨hi, h⟩
    rw [Bool.not_eq_true] at hsize
    cases i with
    | gentab => rfl
    | keyexp ksz =>
      obtain ⟨size, hsel⟩ : ∃ size, selectKeySize ksz = some size :=
        Option.isSome_iff_exists.mp (Option.isNone_eq_false_iff.mp hsize)
      simp only [afterCommand, commandWrites, hsel, Option.map_some, Option.getD_some]
    | keyinv | encblk | decblk => exact if_pos (hksv (by decide))
    | encrypt ksz | decrypt ksz => exact if_pos (bne_eq_false_iff_eq.mp hsize)

/-- A command fails one of its checks and writes the status fields only, or passes them and completes after
its writes. -/
theorem afterCommand_cases (i : Instr) (s : State) :
    (∃ code ∈ [1#3, 3#3], afterCommand i s = complete code s) ∨
    (refusesKeySize i = false ∧ (i ∈ contextCommands → s.ksv = true) ∧
      afterCommand i s = complete 0#3 (commandWrites i s)) := by
  rw [afterCommand_eq]
  split_ifs with hsize hnone
  · exact .inl ⟨1#3, by decide, rfl⟩
  · exact .inl ⟨3#3, by decide, rfl⟩
  · exact .inr ⟨eq_false_of_ne_true hsize, fun hi => Bool.of_not_eq_false fun h => hnone ⟨hi, h⟩, rfl⟩

/-- What no command writes (rule R10, column "written by"). -/
theorem commandWrites_frame (i : Instr) (s : State) :
    (commandWrites i s).key = s.key ∧ (commandWrites i s).rcon = s.rcon ∧ (commandWrites i s).rst = s.rst ∧
      (commandWrites i s).port = s.port ∧ (commandWrites i s).reads = s.reads := by
  cases i with
  | gentab | keyinv => exact ⟨rfl, rfl, rfl, rfl, rfl⟩
  | keyexp ksz => cases h : selectKeySize ksz <;> simp [commandWrites, h, expandKey]
  | encblk => simp [commandWrites, encryptInPlace]
  | decblk => simp [commandWrites, decryptInPlace]
  | encrypt ksz => simp [commandWrites, encryptPublic]
  | decrypt ksz => simp [commandWrites, decryptPublic]

/-- No command takes `TV` back (rule R18). -/
theorem commandWrites_tv {i : Instr} {s : State} (htv : s.tv = true) : (commandWrites i s).tv = true := by
  cases i with
  | gentab => rfl
  | keyinv => exact htv
  | keyexp ksz => cases h : selectKeySize ksz <;> simp [commandWrites, h, expandKey, htv]
  | encblk | decblk | encrypt ksz | decrypt ksz => exact ensureTables_tv s

theorem afterCommand_tv {i : Instr} {s : State} (htv : s.tv = true) : (afterCommand i s).tv = true := by
  rcases afterCommand_cases i s with ⟨code, -, h⟩ | ⟨-, -, h⟩ <;> rw [h]
  · exact htv
  · exact commandWrites_tv htv

/-! ## Every operation keeps the invariant -/

/-- The invariant holds right after reset. -/
theorem reset_inv : MachineInv State.reset where
  busy_iff_pending := rfl
  busy_clear := nofun
  context_tables := nofun
  context_size := nofun
  no_context _ := ⟨rfl, rfl⟩
  tables := nofun
  err_le := Nat.zero_le 3
  context_words := nofun
  memory := reset_memoryWf
  reset_held := nofun

section Kept

variable {s : State} (hinv : MachineInv s)
include hinv

/-- The invariant says nothing of the events to come. -/
theorem withPort_inv (port : List Event) : MachineInv { s with port := port } :=
  { hinv with
    memory := hinv.memory.of_eq rfl rfl rfl rfl
    reset_held := fun hrst => { hinv.reset_held hrst with } }

theorem hostRead_inv (idx : RegIdx) : MachineInv (hostRead idx s) :=
  { hinv with
    memory := hinv.memory.of_eq rfl rfl rfl rfl
    reset_held := fun hrst => { hinv.reset_held hrst with } }

/-- Release leaves the reset column, which the invariant allows with `rst` released too. -/
theorem releaseReset_inv : MachineInv (releaseReset s) :=
  { hinv with
    memory := hinv.memory.of_eq rfl rfl rfl rfl
    reset_held := nofun }

/-- The assertion of `rst` gives the reset column; `RCON` is the one thing kept. -/
theorem assertReset_inv : MachineInv (assertReset s) :=
  { reset_inv with
    memory := assertReset_memoryWf hinv.memory
    reset_held := fun _ => assertReset_atReset s }

end Kept

section Released

variable {s : State} (hinv : MachineInv s) (hrst : s.rst = false)
include hinv hrst

/-- The invariant says nothing of the block but in the reset column; so it is with the key. -/
theorem withBlk_inv (b : Block) : MachineInv { s with blk := b } :=
  { hinv with
    memory := hinv.memory.of_eq rfl rfl rfl rfl
    reset_held := fun h => nomatch hrst.symm.trans h }

theorem withKey_inv (k : KeyRegs) : MachineInv { s with key := k } :=
  { hinv with
    memory := hinv.memory.of_eq rfl rfl rfl rfl
    reset_held := fun h => nomatch hrst.symm.trans h }

/-- Acceptance sets `BUSY` with `PEND` and clears `DONE` and `ERR` (R34(a), (b)). -/
theorem accept_inv (w : Word) : MachineInv (accept w s) :=
  { hinv with
    busy_iff_pending := rfl
    busy_clear := fun _ => ⟨rfl, rfl⟩
    err_le := Nat.zero_le 3
    memory := hinv.memory.of_eq rfl rfl rfl rfl
    reset_held := fun h => nomatch hrst.symm.trans h }

/-- A completion clears `BUSY` with `PEND` and writes one of the codes that are raised (R34(a), (g)). -/
theorem complete_inv {code : BitVec 3} (hcode : code.toNat ≤ 3) : MachineInv (complete code s) :=
  { hinv with
    busy_iff_pending := rfl
    busy_clear := nofun
    err_le := hcode
    memory := hinv.memory.of_eq rfl rfl rfl rfl
    reset_held := fun h => nomatch hrst.symm.trans h }

theorem generateTables_inv : MachineInv (generateTables s) :=
  { hinv with
    context_tables := fun _ => rfl
    tables := fun _ => ⟨rfl, rfl⟩
    memory := generateTables_memoryWf hinv.memory
    reset_held := fun h => nomatch hrst.symm.trans h }

theorem ensureTables_inv : MachineInv (ensureTables s) := by
  rw [ensureTables_eq_generateTables hinv.tables]
  exact generateTables_inv hinv hrst

/-- KEYEXP makes a valid context: its size is one of the two of R34(d), and its words hold values (R19). -/
theorem expandKey_inv (size : KeySize) : MachineInv (expandKey size s) :=
  { ensureTables_inv hinv hrst with
    context_tables := fun _ => ensureTables_tv s
    context_size := fun _ => by cases size; exacts [.inl ⟨rfl, rfl⟩, .inr ⟨rfl, rfl⟩]
    no_context := nofun
    context_words := fun _ i hi => ⟨_, expandKey_ks_inside hinv (by cases size <;> exact hi)⟩
    memory := expandKey_memoryWf hinv size
    reset_held := fun h => nomatch hrst.symm.trans ((ensureTables_rst s).symm.trans h) }

/-- KEYINV keeps the context: the words in the range of the loop get values, the others keep theirs (R19). -/
theorem invertSchedule_inv : MachineInv (invertSchedule s) :=
  { hinv with
    context_words := fun hctx i hi => by
      by_cases hmiddle : 4 ≤ i ∧ i < 4 * s.rounds.toNat
      · exact ⟨_, invertSchedule_ks_inside hinv.memory hmiddle.1 hmiddle.2⟩
      · rw [invertSchedule_ks_outside (by omega)]
        exact hinv.context_words hctx i hi
    memory := invertSchedule_memoryWf hinv.memory
    reset_held := fun h => nomatch hrst.symm.trans h }

/-- Without a context `ROUNDS` and `KEY_WORDS` are 0, and no word of `KS` need hold a value (R34(d)). -/
theorem destroyContext_inv : MachineInv (destroyContext s) :=
  { hinv with
    context_tables := nofun
    context_size := nofun
    no_context := fun _ => ⟨rfl, rfl⟩
    context_words := nofun
    memory := destroyContext_memoryWf hinv.memory
    reset_held := fun h => nomatch hrst.symm.trans h }

/-- What the commands write keeps the invariant, the status fields being left for the completion. -/
theorem commandWrites_inv (i : Instr) : MachineInv (commandWrites i s) := by
  have htables := ensureTables_inv hinv hrst
  have hreleased : (ensureTables s).rst = false := (ensureTables_rst s).trans hrst
  cases i with
  | gentab => exact generateTables_inv hinv hrst
  | keyexp ksz =>
    rw [commandWrites]
    cases selectKeySize ksz with
    | none => exact hinv
    | some size => exact expandKey_inv hinv hrst size
  | keyinv => exact invertSchedule_inv hinv hrst
  | encblk | decblk => exact withBlk_inv htables hreleased _
  | encrypt ksz | decrypt ksz => exact destroyContext_inv (withBlk_inv htables hreleased _) hreleased

/-- A command keeps the invariant, whether it fails or succeeds. -/
theorem afterCommand_inv (i : Instr) : MachineInv (afterCommand i s) := by
  rcases afterCommand_cases i s with ⟨code, hcode, h⟩ | ⟨-, -, h⟩ <;> rw [h]
  · have hraised : ∀ code ∈ [1#3, 3#3], code.toNat ≤ 3 := by decide
    exact complete_inv hinv hrst (hraised code hcode)
  · obtain ⟨-, -, hrst', -, -⟩ := commandWrites_frame i s
    exact complete_inv (commandWrites_inv hinv hrst i) (hrst'.trans hrst) (Nat.zero_le 3)

end Released

/-! ## Every step keeps the invariant -/

/-- A step's next state meets the invariant, and `TV` is still 1 if it was, unless `rst` is asserted. -/
def InvKept (s t : State) : Prop := MachineInv t ∧ (s.tv = true → t.tv = true ∨ t.rst = true)

section Step

variable {s t : State} (hinv : MachineInv s)
include hinv

/-- A write is dropped, accepted as a command, or stored in one register. -/
theorem regWrite_invKept (idx : RegIdx) (v : Word) : InvKept s (regWrite idx v s) := by
  rcases regWrite_cases idx v s with h | ⟨hrst, -, ⟨-, h⟩ | ⟨j, h⟩ | ⟨j, h⟩⟩ <;> rw [h]
  · exact ⟨hinv, .inl⟩
  · exact ⟨accept_inv hinv hrst v, .inl⟩
  · exact ⟨withBlk_inv hinv hrst _, .inl⟩
  · exact ⟨withKey_inv hinv hrst _, .inl⟩

/-- The core's turn leaves an idle core alone, runs the pending command, or fails an illegal word. -/
theorem coreTurn_invKept (h : coreTurn s = .next t) : InvKept s t := by
  rcases coreTurn_cases s with ⟨-, hturn⟩ | ⟨hrst, -, w, -, ⟨i, -, hturn⟩ | ⟨-, hturn⟩⟩ | ⟨-, -, hturn⟩ <;>
    rw [hturn] at h <;> cases h
  · exact ⟨hinv, .inl⟩
  · exact ⟨afterCommand_inv hinv hrst i, fun htv => .inl (afterCommand_tv htv)⟩
  · exact ⟨complete_inv hinv hrst (by decide), .inl⟩

theorem runEvent_invKept {e : Event} (h : runEvent e s = .next t) : InvKept s t := by
  by_cases hcore : e = .core
  · subst hcore
    exact coreTurn_invKept hinv h
  · rcases runEvent_cases s hcore with ⟨idx, hrun⟩ | ⟨idx, v, hrun⟩ | ⟨-, hrun⟩ | ⟨-, hrun⟩ | ⟨_, _, -, -, hrun⟩ <;>
      rw [hrun] at h <;> cases h
    · exact ⟨hostRead_inv hinv idx, .inl⟩
    · exact regWrite_invKept hinv idx v
    · exact ⟨assertReset_inv hinv, fun _ => .inr rfl⟩
    · exact ⟨releaseReset_inv hinv, .inl⟩

theorem step_invKept (h : step s = .next t) : InvKept s t := by
  rcases step_cases s with ⟨-, hstep⟩ | ⟨e, rest, -, hstep⟩ <;> rw [hstep] at h
  · exact coreTurn_invKept hinv h
  · have hkept := runEvent_invKept (withPort_inv hinv rest) h
    exact hkept

/-- Without a word to complete the core is idle (R34(a)). -/
theorem idle_of_no_pending (hpend : s.pend = none) : s.busy = false := by
  rw [hinv.busy_iff_pending, hpend]
  rfl

/-- So a busy core's turn is no fault, and the turn refuses nothing. -/
theorem coreTurn_next : ∃ t, coreTurn s = .next t := by
  rcases coreTurn_cases s with ⟨-, h⟩ | ⟨-, -, w, -, ⟨i, -, h⟩ | ⟨-, h⟩⟩ | ⟨hbusy, hpend, -⟩
  · exact ⟨_, h⟩
  · exact ⟨_, h⟩
  · exact ⟨_, h⟩
  · nomatch hbusy.symm.trans (idle_of_no_pending hinv hpend)

/-- From the invariant a step has a next state, or it is the refusal of a bus transfer that is not well formed. -/
theorem step_next_or_refused :
    (∃ t, step s = .next t) ∨
    (step s = .refused .unsupportedTransfer ∧ ∃ rest offset width, transferWellFormed offset width = false ∧
      (s.port = .busRead offset width :: rest ∨ ∃ v, s.port = .busWrite offset width v :: rest)) := by
  rcases step_cases s with ⟨-, hstep⟩ | ⟨e, rest, hport, hstep⟩ <;> rw [hstep]
  · exact .inl (coreTurn_next hinv)
  · by_cases hcore : e = .core
    · subst hcore
      exact .inl (coreTurn_next (withPort_inv hinv rest))
    · rw [hport]
      rcases runEvent_cases { s with port := rest } hcore with ⟨idx, hrun⟩ | ⟨idx, v, hrun⟩ | ⟨-, hrun⟩ | ⟨-, hrun⟩ |
        ⟨offset, width, hwf, hevent, hrun⟩
      · exact .inl ⟨_, hrun⟩
      · exact .inl ⟨_, hrun⟩
      · exact .inl ⟨_, hrun⟩
      · exact .inl ⟨_, hrun⟩
      · refine .inr ⟨hrun, rest, offset, width, hwf, ?_⟩
        rcases hevent with rfl | ⟨v, rfl⟩
        · exact .inl rfl
        · exact .inr ⟨v, rfl⟩

end Step

end Sys2Proof.Machine

namespace Sys2Proof.Proofs

open Machine

/-- Settles O7: the flags are 0 right after reset, so the clauses with a premise hold for want of it. -/
theorem invariantAtReset : Obligations.InvariantAtReset := reset_inv

/-- Settles O8: whatever the step is, the operation behind it keeps the invariant, and only reset clears `TV`. -/
theorem invariantKeptByEveryStep : Obligations.InvariantKeptByEveryStep :=
  fun _ _ hinv hstep => step_invKept hinv hstep

/-- Settles O9: from the invariant a step has a next state or is the refusal of an ill-formed transfer, so it is no
fault and no other refusal. -/
theorem noFaultFromTheInvariant : Obligations.NoFaultFromTheInvariant := by
  intro s hinv
  rcases step_next_or_refused hinv with ⟨t, hnext⟩ | ⟨hrefused, htransfer⟩
  · exact ⟨fun f hf => (nomatch hnext.symm.trans hf), fun r hr => (nomatch hnext.symm.trans hr)⟩
  · refine ⟨fun f hf => (nomatch hrefused.symm.trans hf), fun r hr => ?_⟩
    cases hrefused.symm.trans hr
    exact ⟨rfl, htransfer⟩

end Sys2Proof.Proofs
end

section
/-!
PROOF. Reset, the port and the bus, one step at a time (rules R14, R33, R41, R46, R50, R170 to R174), and the
completion of a pending command (rules R32, R185); and the obligations about them.
-/

namespace Sys2Proof.Machine

/-! ## Reset (rules R33, R170) -/

/-- While `rst` is asserted the core does not move. -/
theorem coreTurn_of_rst {s : State} (hrst : s.rst = true) : coreTurn s = .next s := by
  simp [coreTurn, hrst]

/-- The reset state is at the reset column, with `rst` released. -/
theorem reset_atReset : AtReset State.reset :=
  ⟨rfl, rfl, rfl, rfl, rfl, rfl, rfl, rfl, rfl, rfl, rfl, rfl, rfl⟩

/-- While `rst` is asserted every event leaves the reset column as it is, and `RCON` its constant. -/
theorem runEvent_atReset {e : Event} {s t : State} (hrst : s.rst = true) (hreset : AtReset s)
    (h : runEvent e s = .next t) : AtReset t ∧ t.rcon = s.rcon := by
  by_cases hcore : e = .core
  · subst hcore
    cases (coreTurn_of_rst hrst).symm.trans h
    exact ⟨hreset, rfl⟩
  · rcases runEvent_cases s hcore with ⟨idx, hrun⟩ | ⟨idx, v, hrun⟩ | ⟨-, hrun⟩ | ⟨-, hrun⟩ | ⟨_, _, -, -, hrun⟩ <;>
      rw [hrun] at h <;> cases h
    · exact ⟨{ hreset with }, rfl⟩
    · rw [regWrite_dropped (.inl hrst)]
      exact ⟨hreset, rfl⟩
    · exact ⟨assertReset_atReset s, rfl⟩
    · exact ⟨{ hreset with }, rfl⟩

theorem step_atReset {s t : State} (hrst : s.rst = true) (hreset : AtReset s) (h : step s = .next t) :
    AtReset t ∧ t.rcon = s.rcon := by
  rcases step_cases s with ⟨-, hstep⟩ | ⟨e, rest, -, hstep⟩ <;> rw [hstep] at h
  · cases (coreTurn_of_rst hrst).symm.trans h
    exact ⟨hreset, rfl⟩
  · have hport : AtReset { s with port := rest } := { hreset with }
    exact runEvent_atReset (s := { s with port := rest }) hrst hport h

/-! ## The status word (rule R14) -/

/-- Bit `i` of the status word, by the field that holds it; above bit 15 there is none. -/
theorem getLsbD_status (s : State) {i : Nat} (hi : i < 32) :
    s.status.getLsbD i =
      if i = 0 then s.busy else if i = 1 then s.done else if i = 2 then s.tv else if i = 3 then s.ksv
      else if i < 7 then s.err.getLsbD (i - 4) else if i < 8 then false
      else if i < 12 then s.rounds.getLsbD (i - 8) else s.keyWords.getLsbD (i - 12) := by
  simp only [State.status, BitVec.getLsbD_setWidth, BitVec.getLsbD_append, BitVec.getLsbD_ofBool]
  interval_cases i <;> simp

/-- The fields of the status word, each at its bits. -/
theorem status_layout (s : State) :
    s.status.getLsbD 0 = s.busy ∧ s.status.getLsbD 1 = s.done ∧ s.status.getLsbD 2 = s.tv ∧
    s.status.getLsbD 3 = s.ksv ∧ s.status.extractLsb' 4 3 = s.err ∧ s.status.getLsbD 7 = false ∧
    s.status.extractLsb' 8 4 = s.rounds ∧ s.status.extractLsb' 12 4 = s.keyWords ∧
    s.status.extractLsb' 16 16 = 0#16 := by
  have hfield {n : Nat} {lo : Nat} {field : BitVec n} (h : ∀ i, i < n → s.status.getLsbD (lo + i) = field.getLsbD i) :
      s.status.extractLsb' lo n = field :=
    BitVec.eq_of_getLsbD_eq fun i hi => by rw [BitVec.getLsbD_extractLsb', h i hi, decide_eq_true hi, Bool.true_and]
  refine ⟨getLsbD_status s (by decide), getLsbD_status s (by decide), getLsbD_status s (by decide),
    getLsbD_status s (by decide), hfield fun i hi => ?_, getLsbD_status s (by decide), hfield fun i hi => ?_,
    hfield fun i hi => ?_, hfield fun i hi => ?_⟩
  all_goals
    rw [getLsbD_status s (by omega)]
    grind

/-- `STATUS` reads 0 in the reset column. -/
theorem status_of_atReset {s : State} (h : AtReset s) : s.status = 0#32 := by
  simp [State.status, h.busy, h.done, h.tv, h.ksv, h.err, h.rounds, h.keyWords]

/-- A write other than of `CMD` changes no field that `STATUS` shows. -/
theorem regWrite_status {idx : RegIdx} (hidx : idx ≠ 0#4) (v : Word) (s : State) :
    (regWrite idx v s).status = s.status := by
  rcases regWrite_cases idx v s with h | ⟨-, -, ⟨hcmd, -⟩ | ⟨j, h⟩ | ⟨j, h⟩⟩
  · rw [h]
  · exact absurd hcmd hidx
  · rw [h, State.status, State.status]
  · rw [h, State.status, State.status]

/-- `STATUS` takes no write (rule R14). -/
theorem regWrite_statusIndex (v : Word) (s : State) : regWrite 1#4 v s = s := by
  rw [regWrite]
  split
  · rfl
  · exact regWriteIdle_of_readOnly v (by decide)

/-- Acceptance sets `BUSY` and clears `DONE` and `ERR` in the status word; bits 0, 1 and 4 to 6 are theirs. -/
theorem accept_status (w : Word) (s : State) :
    (accept w s).status = (s.status &&& 0xFFFFFF8C#32) ||| 0x00000001#32 := by
  have hmask : ∀ i < 32, (0xFFFFFF8C#32).getLsbD i = !(i == 0 || i == 1 || i == 4 || i == 5 || i == 6) := by decide
  have hset : ∀ i < 32, (0x00000001#32).getLsbD i = (i == 0) := by decide
  apply BitVec.eq_of_getLsbD_eq
  intro i hi
  rw [BitVec.getLsbD_or, BitVec.getLsbD_and, hmask i hi, hset i hi, getLsbD_status _ hi, getLsbD_status _ hi]
  simp only [accept_busy, accept_done, accept_tv, accept_ksv, accept_err, accept_rounds, accept_keyWords]
  interval_cases i <;> simp

/-- A read of another register does not see the status fields (rule R41). -/
theorem regRead_accept {idx : RegIdx} (hidx : idx ≠ 1#4) (w : Word) (s : State) :
    regRead idx (accept w s) = regRead idx s := by
  have hne : idx.toNat ≠ 1 := fun h => hidx (BitVec.eq_of_toNat_eq h)
  unfold regRead
  split
  case h_1 h => exact absurd h hne
  all_goals rfl

/-! ## The key registers (rule R12) -/

/-- A read gives the same for any key. -/
theorem regRead_withKey (idx : RegIdx) (s : State) (k : KeyRegs) :
    regRead idx { s with key := k } = regRead idx s := rfl

/-- A write does the same with any key, but for the key itself. -/
theorem regWrite_withKey (idx : RegIdx) (v : Word) (s : State) (k : KeyRegs) :
    ∃ k', regWrite idx v { s with key := k } = { regWrite idx v s with key := k' } := by
  simp only [regWrite]
  split
  · exact ⟨k, rfl⟩
  · unfold regWriteIdle
    split <;> exact ⟨_, rfl⟩

/-- So does every event but the core's turn. -/
theorem runEvent_withKey {e : Event} {s t : State} (k : KeyRegs) (hcore : e ≠ .core) (h : runEvent e s = .next t) :
    ∃ k', runEvent e { s with key := k } = .next { t with key := k' } := by
  cases e with
  | core => exact absurd rfl hcore
  | regRead idx => cases h; exact ⟨k, rfl⟩
  | regWrite idx v =>
    cases h
    exact (regWrite_withKey idx v s k).imp fun _ => congrArg _
  | busRead offset width =>
    simp only [runEvent] at h ⊢
    cases hidx : transferIndex offset width <;> rw [hidx] at h <;> cases h
    exact ⟨k, rfl⟩
  | busWrite offset width v =>
    simp only [runEvent] at h ⊢
    cases hidx : transferIndex offset width <;> rw [hidx] at h <;> cases h
    exact (regWrite_withKey _ v s k).imp fun _ => congrArg _
  | rstAssert => cases h; exact ⟨_, rfl⟩
  | rstRelease => cases h; exact ⟨k, rfl⟩

/-! ## A byte-addressed bus (rule R46) -/

/-- An aligned word of the register space is the register's. -/
theorem transferIndex_of_register (idx : RegIdx) : transferIndex (4 * idx.toNat) 4 = some idx := by
  have hwf : transferWellFormed (4 * idx.toNat) 4 = true := by
    have := idx.isLt
    simp [transferWellFormed]
    omega
  rw [transferIndex, if_pos hwf, Nat.mul_div_cancel_left _ (by decide), BitVec.ofNat_toNat, BitVec.setWidth_eq]

/-- A transfer that is not one is no register's. -/
theorem transferIndex_of_other {offset width : Nat} (h : width ≠ 4 ∨ offset % 4 ≠ 0 ∨ 64 ≤ offset) :
    transferIndex offset width = none := by
  have hwf : ¬ transferWellFormed offset width = true := by
    simp [transferWellFormed]
    omega
  rw [transferIndex, if_neg hwf]

/-! ## Completion of an accepted command (rules R32, R185) -/

/-- With `rst` released a busy core's turn runs the command that its pending word decodes to. -/
theorem coreTurn_of_decode {s : State} {w : Word} {i : Instr} (hrst : s.rst = false) (hbusy : s.busy = true)
    (hpend : s.pend = some w) (hdecode : decode w = .ok i) : coreTurn s = exec i s := by
  simp [coreTurn, hrst, hbusy, hpend, completePending_of_decode hdecode]

/-- Every command ends as a completion does. -/
theorem afterCommand_completed (i : Instr) (s : State) :
    (afterCommand i s).done = true ∧ (afterCommand i s).busy = false ∧ (afterCommand i s).pend = none := by
  rcases afterCommand_cases i s with ⟨code, -, h⟩ | ⟨-, -, h⟩ <;> rw [h] <;> exact ⟨rfl, rfl, rfl⟩

/-- An event that is neither reset nor a refused transfer. -/
def SupportedEvent (e : Event) : Prop :=
  e ≠ .rstAssert ∧ (∀ offset width, e = .busRead offset width → transferWellFormed offset width = true) ∧
    (∀ offset width v, e = .busWrite offset width v → transferWellFormed offset width = true)

/-- In a busy state of the invariant `rst` is released and a word is pending, so the core's turn completes it. -/
theorem coreTurn_completes {s : State} (hinv : MachineInv s) (hbusy : s.busy = true) :
    ∃ t, coreTurn s = .next t ∧ t.busy = false ∧ t.done = true ∧ t.pend = none := by
  have hrst : ¬ s.rst = true := fun hrst => nomatch hbusy.symm.trans (hinv.reset_held hrst).busy
  rcases coreTurn_cases s with ⟨hrst' | hidle, -⟩ | ⟨-, -, w, -, ⟨i, -, h⟩ | ⟨-, h⟩⟩ | ⟨-, hpend, -⟩
  · exact absurd hrst' hrst
  · nomatch hbusy.symm.trans hidle
  · obtain ⟨hdone, hidle, hpend⟩ := afterCommand_completed i s
    exact ⟨_, h, hidle, hdone, hpend⟩
  · exact ⟨_, h, rfl, rfl, rfl⟩
  · nomatch hbusy.symm.trans (idle_of_no_pending hinv hpend)

/-- On a busy core a supported event other than the core's turn leaves the command pending. -/
theorem runEvent_busy {e : Event} {s : State} (hbusy : s.busy = true) (hcore : e ≠ .core) (he : SupportedEvent e) :
    ∃ t, runEvent e s = .next t ∧ t.busy = true ∧ t.port = s.port := by
  obtain ⟨hreset, hread, hwrite⟩ := he
  rcases runEvent_cases s hcore with ⟨idx, h⟩ | ⟨idx, v, h⟩ | ⟨rfl, -⟩ | ⟨-, h⟩ |
    ⟨offset, width, hwf, rfl | ⟨v, rfl⟩, -⟩
  · exact ⟨_, h, hbusy, rfl⟩
  · rw [regWrite_dropped (.inr hbusy)] at h
    exact ⟨s, h, hbusy, rfl⟩
  · exact absurd rfl hreset
  · exact ⟨_, h, hbusy, rfl⟩
  · nomatch hwf.symm.trans (hread _ _ rfl)
  · nomatch hwf.symm.trans (hwrite _ _ _ rfl)

/-- Each step takes one event and leaves the command pending, until the core has its turn: at a turn among the
events, or when they have run out. -/
theorem run_completes (events : List Event) (s : State) (hinv : MachineInv s) (hbusy : s.busy = true)
    (hport : s.port = events) (hsupported : ∀ e ∈ events, SupportedEvent e) :
    ∃ n t, n ≤ events.length + 1 ∧ core.run n s = .next t ∧ t.busy = false ∧ t.done = true ∧ t.pend = none := by
  induction events generalizing s with
  | nil =>
    obtain ⟨t, hturn, hdone⟩ := coreTurn_completes hinv hbusy
    exact ⟨1, t, le_rfl, run_succ (M := core) ((step_nil hport).trans hturn) 0, hdone⟩
  | cons e rest ih =>
    rw [List.forall_mem_cons] at hsupported
    obtain ⟨he, hrest⟩ := hsupported
    have hinv' := withPort_inv hinv rest
    by_cases hcore : e = .core
    · subst hcore
      obtain ⟨t, hturn, hdone⟩ := coreTurn_completes hinv' hbusy
      exact ⟨1, t, by simp, run_succ (M := core) ((step_cons hport).trans hturn) 0, hdone⟩
    · obtain ⟨u, hrun, hbusy', hport'⟩ := runEvent_busy (s := { s with port := rest }) hbusy hcore he
      have hinvNext : MachineInv u := (runEvent_invKept hinv' hrun).1
      obtain ⟨n, t, hn, hrunRest, hdone⟩ := ih u hinvNext hbusy' hport' hrest
      have hfirst := run_succ (M := core) ((step_cons hport).trans hrun) n
      exact ⟨n + 1, t, Nat.succ_le_succ hn, hfirst.trans hrunRest, hdone⟩

end Sys2Proof.Machine

namespace Sys2Proof.Proofs

open Machine

/-- Settles O5: the reset state's fields, read off its definition; the round constants double eleven times. -/
theorem resetStateValues : Obligations.ResetStateValues :=
  ⟨rfl, rfl, reset_atReset, rfl, rfl, by decide, rfl, rfl, rfl, rfl, rfl, rfl⟩

/-- Settles O6: the assertion is `assertReset`; while it lasts, writes are dropped and the core does not move. -/
theorem resetStepFromAnyState : Obligations.ResetStepFromAnyState := by
  refine ⟨?asserted, ?held, ?write, ?core, ?silence, ?release⟩
  case asserted =>
    intro s rest hport
    have hreset := assertReset_atReset { s with port := rest }
    exact ⟨_, step_cons hport, hreset, rfl, rfl, rfl, status_of_atReset hreset, rfl, rfl, rfl⟩
  case held => exact fun s t hrst hreset hstep => step_atReset hrst hreset hstep
  case write =>
    intro s rest idx v hrst hport
    rw [step_cons hport, runEvent, regWrite_dropped]
    exact .inl hrst
  case core => exact fun s rest hrst hport => (step_cons hport).trans (coreTurn_of_rst hrst)
  case silence => exact fun s hrst hport => (step_nil hport).trans (coreTurn_of_rst hrst)
  case release => exact fun s rest hport => step_cons hport

/-- Settles O12: the layout bit by bit, the values from R34 (d) and (g), and the writes by what they change. -/
theorem statusWordLayout : Obligations.StatusWordLayout := by
  refine ⟨fun s => ?layout, fun s hinv => ⟨?err, ?context⟩, fun s idx v hidx => regWrite_status hidx v s,
    fun s v => regWrite_statusIndex v s, fun _ _ => rfl⟩
  case layout =>
    obtain ⟨h0, h1, h2, h3, h4, h7, h8, h12, h16⟩ := status_layout s
    exact ⟨h0, h1, h2, h3, h4, h7, h8, h12, h16, rfl, rfl, bne_iff_ne⟩
  case err =>
    have hle := hinv.err_le
    generalize s.err = err at hle ⊢
    revert err
    decide
  case context =>
    cases hksv : s.ksv with
    | false =>
      obtain ⟨hrounds, hkeyWords⟩ := hinv.no_context hksv
      simp [hrounds, hkeyWords]
    | true =>
      rcases hinv.context_size hksv with ⟨hrounds, hkeyWords⟩ | ⟨hrounds, hkeyWords⟩ <;> simp [hrounds, hkeyWords]

/-- Settles O13: the bus adapter's index for a register's word is the register's, and there is none otherwise. -/
theorem onlyAlignedWordTransfersAreServed : Obligations.OnlyAlignedWordTransfersAreServed := by
  refine ⟨?write, ?read, ?refused⟩
  case write =>
    intro s rest idx v hport
    rw [step_cons hport, step_cons rfl]
    simp only [runEvent, transferIndex_of_register]
  case read =>
    intro s rest idx hport
    rw [step_cons hport, step_cons rfl]
    simp only [runEvent, transferIndex_of_register]
  case refused =>
    intro s rest offset width v hother hport
    rcases hport with hport | hport <;> rw [step_cons hport] <;> simp only [runEvent, transferIndex_of_other hother]

/-- Settles O14: the write changes one register of the block, and the read returns that register. -/
theorem blockReadReturnsTheValueWritten : Obligations.BlockReadReturnsTheValueWritten := by
  intro s rest j v hrst hidle hport
  refine ⟨_, (run_succ (M := core) (step_regWrite_idle hrst hidle hport) 1).trans
    (run_succ (M := core) (step_regRead (by rw [regWriteIdle_blk])) 0), ?_, rfl⟩
  simp only [regWriteIdle_blk, regRead_blk, Block.get_set, if_true]

/-- Settles O15: on the port by the equation for a busy core; a bus transfer of a register's word is that write. -/
theorem writesWhileBusyAreLost : Obligations.WritesWhileBusyAreLost := by
  refine fun s rest hbusy => ⟨fun idx v hport => step_regWrite_busy hbusy hport, fun idx v hport => ?_⟩
  rw [step_cons hport]
  simp only [runEvent, transferIndex_of_register]
  rw [regWrite_dropped]
  exact .inr hbusy

/-- Settles O16: acceptance touches the status fields only, R34(b) gives their values while busy, and an attempted
write is dropped before the read. -/
theorem readsWhileBusySeeTheOldState : Obligations.ReadsWhileBusySeeTheOldState := by
  refine ⟨fun s w => ⟨fun idx hidx => regRead_accept hidx w s, accept_status w s⟩, fun s hinv hbusy => ?busy,
    fun s rest idx v idx' hbusy hport => ?read⟩
  case busy =>
    obtain ⟨hdone, herr⟩ := hinv.busy_clear hbusy
    obtain ⟨h0, h1, -, -, h4, -⟩ := status_layout s
    have hstatus : regRead 1#4 s = s.status := rfl
    refine ⟨BitVec.eq_of_getLsbD_eq fun i hi => ?_, h4.trans herr⟩
    rw [hstatus, BitVec.getLsbD_extractLsb']
    interval_cases i
    · rw [h0, hbusy]; rfl
    · rw [h1, hdone]; rfl
  case read =>
    exact (run_succ (M := core) (step_regWrite_busy hbusy hport) 1).trans (run_succ (M := core) (step_regRead rfl) 0)

/-- Settles O17: a read sees no key register, and an event other than the core's turn moves none of them elsewhere. -/
theorem keyRegistersDoNotLeak : Obligations.KeyRegistersDoNotLeak :=
  ⟨fun s k idx => regRead_withKey idx s k, fun _ _ _ k hcore hrun => runEvent_withKey k hcore hrun⟩

/-- Settles O19: the core's turn, with or without an event that gives it, is the completion of the pending word. -/
theorem stepRunsTheDecodedCommand : Obligations.StepRunsTheDecodedCommand := by
  intro s w i rest hrst hbusy hpend hdecode
  exact ⟨fun hport => (step_nil hport).trans (coreTurn_of_decode hrst hbusy hpend hdecode),
    fun hport =>
      (step_cons hport).trans (coreTurn_of_decode (s := { s with port := rest }) hrst hbusy hpend hdecode)⟩

/-- Settles O21, by induction on the events that wait: see `run_completes`. -/
theorem everyAcceptedCommandCompletes : Obligations.EveryAcceptedCommandCompletes :=
  fun s hinv hbusy hsupported => run_completes s.port s hinv hbusy rfl hsupported

end Sys2Proof.Proofs
end

section
/-!
PROOF. What a command leaves unchanged and what it does not depend on (rules R10, R12, R32, R177, R178); and the
obligations about it.
-/

namespace Sys2Proof.Machine

/-! ## Frame (rule R10, columns "written by") -/

/-- The commands that write the block. -/
def blockCommands : List Instr := [.encblk, .decblk, .encrypt 0#2, .decrypt 0#2]

/-- The commands that write words of `KS`. -/
def scheduleCommands : List Instr := [.keyexp 0#2, .keyexp 1#2, .keyinv, .encrypt 0#2, .decrypt 0#2]

/-- The commands that make or end a context. -/
def sizeCommands : List Instr := [.keyexp 0#2, .keyexp 1#2, .encrypt 0#2, .decrypt 0#2]

/-- The commands that write the tables, or see to it that they are there. -/
def tableCommands : List Instr :=
  [.gentab, .keyexp 0#2, .keyexp 1#2, .encblk, .decblk, .encrypt 0#2, .decrypt 0#2]

section Frame

variable {i : Instr} {s : State} (hsize : refusesKeySize i = false)
include hsize

theorem commandWrites_blk : (commandWrites i s).blk = s.blk ∨ i ∈ blockCommands := by
  cases i with
  | gentab | keyinv => exact .inl rfl
  | keyexp ksz => cases h : selectKeySize ksz <;> simp [commandWrites, h, expandKey]
  | encblk | decblk => exact .inr (by decide)
  | encrypt ksz | decrypt ksz =>
    obtain rfl : ksz = 0#2 := bne_eq_false_iff_eq.mp hsize
    exact .inr (by decide)

theorem commandWrites_ks : (commandWrites i s).ks = s.ks ∨ i ∈ scheduleCommands := by
  cases i with
  | gentab => exact .inl rfl
  | keyinv => exact .inr (by decide)
  | keyexp ksz => exact .inr (by revert ksz; decide)
  | encblk | decblk => exact .inl (ensureTables_ks s)
  | encrypt ksz | decrypt ksz => exact .inr (by revert ksz; decide)

theorem commandWrites_size :
    (commandWrites i s).ksv = s.ksv ∧ (commandWrites i s).rounds = s.rounds ∧
      (commandWrites i s).keyWords = s.keyWords ∨ i ∈ sizeCommands := by
  cases i with
  | gentab | keyinv => exact .inl ⟨rfl, rfl, rfl⟩
  | keyexp ksz => exact .inr (by revert ksz; decide)
  | encblk | decblk => exact .inl ⟨ensureTables_ksv s, ensureTables_rounds s, ensureTables_keyWords s⟩
  | encrypt ksz | decrypt ksz => exact .inr (by revert ksz; decide)

theorem commandWrites_tables :
    (commandWrites i s).sbox = s.sbox ∧ (commandWrites i s).isbox = s.isbox ∧ (commandWrites i s).tv = s.tv ∨
      i ∈ tableCommands := by
  cases i with
  | gentab | encblk | decblk => exact .inr (by decide)
  | keyinv => exact .inl ⟨rfl, rfl, rfl⟩
  | keyexp ksz => exact .inr (by revert ksz; decide)
  | encrypt ksz | decrypt ksz => exact .inr (by revert ksz; decide)

end Frame

/-! ## The key (rules R12, R178) -/

/-- The generation of the tables does not look at the key. -/
theorem ensureTables_withKey (s : State) (k : KeyRegs) :
    ensureTables { s with key := k } = { ensureTables s with key := k } := by
  unfold ensureTables
  split <;> rfl

/-- A command that uses the context does the same with any key, but for the key itself. -/
theorem afterCommand_withKey {i : Instr} (hi : i ∈ contextCommands) (s : State) (k : KeyRegs) :
    afterCommand i { s with key := k } = { afterCommand i s with key := k } := by
  simp only [contextCommands, List.mem_cons, List.not_mem_nil, or_false] at hi
  rcases hi with rfl | rfl | rfl <;> simp only [afterCommand, encryptInPlace, decryptInPlace, ensureTables_withKey]
  all_goals
    split <;> rfl

/-! ## The unspecified entries (rules R19, R32, R34) -/

section Epoch

variable {s : State} (hinv : MachineInv s) (e : Nat)
include hinv

/-- The invariant says nothing of the counter of log entry 2. -/
theorem withEpoch_inv : MachineInv { s with epoch := e } :=
  { hinv with
    memory := hinv.memory.of_eq rfl rfl rfl rfl
    reset_held := fun hrst => { hinv.reset_held hrst with } }

/-- A word of a valid context reads as the value it holds, whatever the counter is (rule R19). -/
theorem ksAt_withEpoch (hctx : s.ksv = true) {i : Nat} (hi : i < 4 * (s.rounds.toNat + 1)) :
    State.ksAt { s with epoch := e } i = s.ksAt i := by
  obtain ⟨v, hv⟩ := hinv.context_words hctx i hi
  exact (readEntry_some _ hv).trans (readEntry_some _ hv).symm

/-- KEYINV reads words of the valid context only. -/
theorem invertSchedule_withEpoch (hctx : s.ksv = true) :
    invertSchedule { s with epoch := e } = { invertSchedule s with epoch := e } := by
  have hwords : writeEntries 4 (4 * s.rounds.toNat) (keyInvert (State.ksAt { s with epoch := e }) s.rounds.toNat) s.ks =
      writeEntries 4 (4 * s.rounds.toNat) (keyInvert s.ksAt s.rounds.toNat) s.ks :=
    writeEntries_congr _ fun i _ hi => keyInvert_congr _ (ksAt_withEpoch hinv e hctx (by omega))
  rw [invertSchedule, hwords]
  rfl

theorem encryptInPlace_withEpoch (hctx : s.ksv = true) :
    encryptInPlace { s with epoch := e } = { encryptInPlace s with epoch := e } := by
  rw [encryptInPlace_of_context hinv hctx, encryptInPlace_of_context (withEpoch_inv hinv e) hctx,
    encryptBlock_congr _ _ _ fun i hi => ksAt_withEpoch hinv e hctx hi]

theorem decryptInPlace_withEpoch (hctx : s.ksv = true) :
    decryptInPlace { s with epoch := e } = { decryptInPlace s with epoch := e } := by
  rw [decryptInPlace_of_context hinv hctx, decryptInPlace_of_context (withEpoch_inv hinv e) hctx,
    decryptBlock_congr _ _ _ fun i hi => ksAt_withEpoch hinv e hctx hi]

/-- What a command writes is the same for any value of the counter, but for the counter itself: the tables it
reads are the generated ones, and the words it reads are those of the key or of a valid context. -/
theorem commandWrites_withEpoch {i : Instr} (hctx : i ∈ contextCommands → s.ksv = true) :
    ∃ e', commandWrites i { s with epoch := e } = { commandWrites i s with epoch := e' } := by
  have htables := hinv.tables
  have htables' := (withEpoch_inv hinv e).tables
  cases i with
  | gentab => exact ⟨e, rfl⟩
  | keyexp ksz =>
    simp only [commandWrites]
    cases selectKeySize ksz with
    | none => exact ⟨e, rfl⟩
    | some size =>
      refine ⟨e, ?_⟩
      simp only [Option.map_some, Option.getD_some]
      rw [expandKey_eq hinv, expandKey_eq (withEpoch_inv hinv e)]
      rfl
  | keyinv => exact ⟨e, invertSchedule_withEpoch hinv e (hctx (by decide))⟩
  | encblk => exact ⟨e, encryptInPlace_withEpoch hinv e (hctx (by decide))⟩
  | decblk => exact ⟨e, decryptInPlace_withEpoch hinv e (hctx (by decide))⟩
  | encrypt ksz =>
    refine ⟨e + 1, ?_⟩
    rw [commandWrites, commandWrites, encryptPublic_eq htables, encryptPublic_eq htables']
    rfl
  | decrypt ksz =>
    refine ⟨e + 1, ?_⟩
    rw [commandWrites, commandWrites, decryptPublic_eq htables, decryptPublic_eq htables']
    rfl

/-- So is the state after the command: the checks before its writes look at the selector and at `KSV`. -/
theorem afterCommand_withEpoch (i : Instr) :
    ∃ e', afterCommand i { s with epoch := e } = { afterCommand i s with epoch := e' } := by
  simp only [afterCommand_eq]
  split_ifs with hsize hnone
  · exact ⟨e, rfl⟩
  · exact ⟨e, rfl⟩
  · have hctx (hi : i ∈ contextCommands) : s.ksv = true := Bool.of_not_eq_false fun h => hnone ⟨hi, h⟩
    exact (commandWrites_withEpoch hinv e hctx).imp fun _ => congrArg (complete 0#3)

end Epoch

/-! ## The context (rules R145, R177) -/

/-- After a public operation there is no context. -/
theorem afterCommand_public_ksv {i : Instr} (hi : i ∈ [Instr.encrypt 0#2, .decrypt 0#2]) (s : State) :
    (afterCommand i s).ksv = false := by
  simp only [List.mem_cons, List.not_mem_nil, or_false] at hi
  rcases hi with rfl | rfl <;> rfl

/-- Only KEYEXP with a supported selector makes a context where there is none. -/
theorem afterCommand_makes_context {i : Instr} {s : State} (hnone : s.ksv = false)
    (hctx : (afterCommand i s).ksv = true) : i = .keyexp 0#2 ∨ i = .keyexp 1#2 := by
  rcases afterCommand_cases i s with ⟨code, -, h⟩ | ⟨hsize, -, h⟩
  · rw [h] at hctx
    nomatch hnone.symm.trans hctx
  · rcases commandWrites_size (s := s) hsize with ⟨hksv, -, -⟩ | hmem
    · rw [h, complete_ksv, hksv] at hctx
      nomatch hnone.symm.trans hctx
    · simp only [sizeCommands, List.mem_cons, List.not_mem_nil, or_false] at hmem
      rcases hmem with rfl | rfl | rfl | rfl
      · exact .inl rfl
      · exact .inr rfl
      · nomatch (afterCommand_public_ksv (by decide) s).symm.trans hctx
      · nomatch (afterCommand_public_ksv (by decide) s).symm.trans hctx

/-- The core's turn makes a context only by completing such a KEYEXP. -/
theorem coreTurn_makes_context {s t : State} (hnone : s.ksv = false) (h : coreTurn s = .next t) (hctx : t.ksv = true) :
    ∃ w, s.pend = some w ∧ (decode w = .ok (.keyexp 0#2) ∨ decode w = .ok (.keyexp 1#2)) := by
  rcases coreTurn_cases s with ⟨-, hturn⟩ | ⟨-, -, w, hpend, ⟨i, hdecode, hturn⟩ | ⟨-, hturn⟩⟩ | ⟨-, -, hturn⟩ <;>
    rw [hturn] at h <;> cases h
  · nomatch hnone.symm.trans hctx
  · rcases afterCommand_makes_context hnone hctx with rfl | rfl
    · exact ⟨w, hpend, .inl hdecode⟩
    · exact ⟨w, hpend, .inr hdecode⟩
  · nomatch hnone.symm.trans hctx

/-- No event but the core's turn makes one. -/
theorem runEvent_makes_context {e : Event} {s t : State} (hnone : s.ksv = false) (h : runEvent e s = .next t)
    (hctx : t.ksv = true) : e = .core := by
  by_contra hcore
  rcases runEvent_cases s hcore with ⟨idx, hrun⟩ | ⟨idx, v, hrun⟩ | ⟨-, hrun⟩ | ⟨-, hrun⟩ | ⟨_, _, -, -, hrun⟩ <;>
    rw [hrun] at h <;> cases h
  · nomatch hnone.symm.trans hctx
  · rcases regWrite_cases idx v s with hw | ⟨-, -, ⟨-, hw⟩ | ⟨j, hw⟩ | ⟨j, hw⟩⟩ <;>
      rw [hw] at hctx <;> nomatch hnone.symm.trans hctx
  · nomatch hctx
  · nomatch hnone.symm.trans hctx

end Sys2Proof.Machine

namespace Sys2Proof.Proofs

open Machine

/-- Settles O22: a command that fails a check writes the status fields; the frame of the writes of the others is
said field by field. -/
theorem commandsWriteOnlyWhatTheirRulesName : Obligations.CommandsWriteOnlyWhatTheirRulesName := by
  intro i s t hexec
  obtain rfl := exec_next_iff.mp hexec
  obtain ⟨hdone, hidle, hpend⟩ := afterCommand_completed i s
  rcases afterCommand_cases i s with ⟨code, -, h⟩ | ⟨hsize, -, h⟩ <;> rw [h]
  · exact ⟨⟨rfl, rfl, rfl, rfl, rfl⟩, .inl rfl, .inl rfl, .inl ⟨rfl, rfl, rfl⟩, .inl ⟨rfl, rfl, rfl⟩, rfl, rfl, rfl⟩
  · exact ⟨commandWrites_frame i s, commandWrites_blk hsize, commandWrites_ks hsize, commandWrites_size hsize,
      commandWrites_tables hsize, rfl, rfl, rfl⟩

/-- Settles O23: what a command reads is the generated tables, the key, or the words of a valid context, none of which
the counter has a part in. -/
theorem unspecifiedValuesAreNeverRead : Obligations.UnspecifiedValuesAreNeverRead := by
  intro i s t e hinv hexec
  obtain rfl := exec_next_iff.mp hexec
  obtain ⟨e', he'⟩ := afterCommand_withEpoch hinv e i
  exact ⟨e', by rw [exec_eq, he']⟩

/-- Settles O49: a public operation leaves `KSV` 0; of what a step can do only KEYEXP's completion sets it; and a
composite command with a refused selector writes the status fields only. -/
theorem compositeDestroysTheContext : Obligations.CompositeDestroysTheContext := by
  refine ⟨?destroyed, ?made, ?kept⟩
  case destroyed =>
    intro s t c hc hexec i hi
    obtain rfl := exec_next_iff.mp hexec
    exact ⟨_, exec_of_noContext hi (afterCommand_public_ksv hc s), rfl, rfl⟩
  case made =>
    intro s t hnone hstep hctx
    rcases step_cases s with ⟨-, h⟩ | ⟨e, rest, -, h⟩ <;> rw [h] at hstep
    · exact coreTurn_makes_context hnone hstep hctx
    · obtain rfl := runEvent_makes_context (s := { s with port := rest }) hnone hstep hctx
      exact coreTurn_makes_context (s := { s with port := rest }) hnone hstep hctx
  case kept =>
    intro s t ksz hksz hexec
    have hrefused : refusesKeySize (.encrypt ksz) = true ∧ refusesKeySize (.decrypt ksz) = true := by
      clear hexec
      revert ksz
      decide
    rcases hexec with hexec | hexec
    · cases (exec_of_refusesKeySize hrefused.1 s).symm.trans hexec
      exact ⟨rfl, rfl, rfl, rfl, rfl⟩
    · cases (exec_of_refusesKeySize hrefused.2 s).symm.trans hexec
      exact ⟨rfl, rfl, rfl, rfl, rfl⟩

/-- Settles O50: a write to a key register changes the key alone, and a command that uses the context does not
look at it. -/
theorem keyChangeNeedsACommand : Obligations.KeyChangeNeedsACommand := by
  refine ⟨fun s j v => ?write, fun s t k i hi hexec => ?command⟩
  case write =>
    rw [regWrite]
    split
    · rfl
    · rw [regWriteIdle_key]
  case command =>
    obtain rfl := exec_next_iff.mp hexec
    rw [exec_eq, afterCommand_withKey hi]

end Sys2Proof.Proofs
end

section
/-!
PROOF. The field product (rule R82) as a bilinear product on bytes, the word functions lane by lane (rules R86,
R87), and the two column mixings as cyclic matrices over the field (rules R88 to R90); and the obligations about
them.
-/

namespace Sys2Proof.Machine

/-! ## XOR on both sides of the product (rules R81, R82) -/

/-- A term that two conditions switch on cancels where both hold. -/
theorem ite_xor (b c : Bool) (t : Byte) :
    (if (b ^^ c) = true then t else 0#8) = (if b = true then t else 0#8) ^^^ (if c = true then t else 0#8) := by
  cases b <;> cases c <;> simp

/-- A switched term of a XOR is the XOR of the switched terms. -/
theorem xor_ite (b : Bool) (t u : Byte) :
    (if b = true then t ^^^ u else 0#8) = (if b = true then t else 0#8) ^^^ (if b = true then u else 0#8) := by
  cases b <;> simp

theorem xtime_xor (a b : Byte) : xtime (a ^^^ b) = xtime a ^^^ xtime b := by
  rw [xtime, xtime, xtime, BitVec.getLsbD_xor, BitVec.shiftLeft_xor_distrib, ite_xor]
  ac_rfl

theorem xtimePow_xor (i : Nat) (a b : Byte) : xtimePow i (a ^^^ b) = xtimePow i a ^^^ xtimePow i b := by
  induction i with
  | zero => rfl
  | succ i ih => rw [xtimePow, ih, xtime_xor]; rfl

theorem gmulBelow_xor_left (a b c : Byte) (n : Nat) :
    gmulBelow (a ^^^ b) c n = gmulBelow a c n ^^^ gmulBelow b c n := by
  induction n with
  | zero => exact BitVec.xor_self.symm
  | succ n ih =>
    rw [gmulBelow, gmulBelow, gmulBelow, ih, xtimePow_xor, xor_ite]
    ac_rfl

theorem gmulBelow_xor_right (a b c : Byte) (n : Nat) :
    gmulBelow a (b ^^^ c) n = gmulBelow a b n ^^^ gmulBelow a c n := by
  induction n with
  | zero => exact BitVec.xor_self.symm
  | succ n ih =>
    rw [gmulBelow, gmulBelow, gmulBelow, ih, BitVec.getLsbD_xor, ite_xor]
    ac_rfl

/-- The product distributes over XOR on the left. -/
theorem gmul_xor_left (a b c : Byte) : gmul (a ^^^ b) c = gmul a c ^^^ gmul b c := gmulBelow_xor_left a b c 8

/-- The product distributes over XOR on the right. -/
theorem gmul_xor_right (a b c : Byte) : gmul a (b ^^^ c) = gmul a b ^^^ gmul a c := gmulBelow_xor_right a b c 8

/-! ## The laws of the product (rule R82) -/

@[simp] theorem gmul_one (a : Byte) : gmul a 1#8 = a := by simp [gmul, gmulBelow, xtimePow]

@[simp] theorem gmul_zero (a : Byte) : gmul a 0#8 = 0#8 := by simp [gmul, gmulBelow]

/-- Every byte is the XOR of the doublings of 1 that its bits select. -/
theorem one_gmul (a : Byte) : gmul 1#8 a = a := by
  revert a
  decide +kernel

/-- Two functions that respect XOR are equal when they agree on the doublings of 1. -/
theorem xorMap_ext {f g : Byte → Byte} (hf : ∀ a b, f (a ^^^ b) = f a ^^^ f b) (hg : ∀ a b, g (a ^^^ b) = g a ^^^ g b)
    (h : ∀ i : Fin 8, f (xtimePow i.val 1#8) = g (xtimePow i.val 1#8)) (a : Byte) : f a = g a := by
  have hzero {k : Byte → Byte} (hk : ∀ a b, k (a ^^^ b) = k a ^^^ k b) : k 0#8 = 0#8 := by
    have := hk 0#8 0#8
    rwa [BitVec.xor_self, BitVec.xor_self] at this
  have hbelow (n : Nat) (hn : n ≤ 8) : f (gmulBelow 1#8 a n) = g (gmulBelow 1#8 a n) := by
    induction n with
    | zero => rw [gmulBelow, hzero hf, hzero hg]
    | succ n ih =>
      rw [gmulBelow, hf, hg, ih (by omega)]
      split
      · rw [h ⟨n, hn⟩]
      · rw [hzero hf, hzero hg]
  rw [← one_gmul a]
  exact hbelow 8 le_rfl

/-- Both sides respect XOR in each factor, so it is enough to compare the products of doublings of 1. -/
theorem gmul_comm (a b : Byte) : gmul a b = gmul b a := by
  refine xorMap_ext (f := (gmul · b)) (g := (gmul b ·)) (gmul_xor_left · · b) (gmul_xor_right b) (fun i => ?_) a
  refine xorMap_ext (f := gmul (xtimePow i.val 1#8)) (g := (gmul · (xtimePow i.val 1#8))) (gmul_xor_right _)
    (gmul_xor_left · · _) (fun j => ?_) b
  revert i j
  decide +kernel

theorem gmul_assoc (a b c : Byte) : gmul (gmul a b) c = gmul a (gmul b c) := by
  refine xorMap_ext (f := fun x => gmul (gmul x b) c) (g := (gmul · (gmul b c)))
    (fun _ _ => by simp only [gmul_xor_left]) (gmul_xor_left · · _) (fun i => ?_) a
  refine xorMap_ext (f := fun x => gmul (gmul (xtimePow i.val 1#8) x) c)
    (g := fun x => gmul (xtimePow i.val 1#8) (gmul x c))
    (fun _ _ => by simp only [gmul_xor_left, gmul_xor_right]) (fun _ _ => by simp only [gmul_xor_left, gmul_xor_right])
    (fun j => ?_) b
  refine xorMap_ext (f := gmul (gmul (xtimePow i.val 1#8) (xtimePow j.val 1#8)))
    (g := fun x => gmul (xtimePow i.val 1#8) (gmul (xtimePow j.val 1#8) x)) (gmul_xor_right _)
    (fun _ _ => by simp only [gmul_xor_right]) (fun k => ?_) c
  revert i j k
  decide +kernel

/-- The multiples by powers of 2 are doublings. -/
theorem gmul_two (a : Byte) : gmul a 2 = xtime a := by simp [gmul, gmulBelow, xtimePow]

theorem gmul_four (a : Byte) : gmul a 4 = xtime (xtime a) := by simp [gmul, gmulBelow, xtimePow]

theorem gmul_eight (a : Byte) : gmul a 8 = xtime (xtime (xtime a)) := by simp [gmul, gmulBelow, xtimePow]

/-! ## Lanes of the word functions (rules R86, R87) -/

/-- The rotation by eight bits moves each lane one place up. -/
theorem rotWord_eq_word (w : Word) : rotWord w = word (lane w 1) (lane w 2) (lane w 3) (lane w 0) := by
  apply BitVec.eq_of_getLsbD_eq
  intro i hi
  simp only [rotWord, word, lane, BitVec.getLsbD_or, BitVec.getLsbD_shiftLeft, BitVec.getLsbD_ushiftRight,
    BitVec.getLsbD_append, BitVec.getLsbD_extractLsb']
  grind

/-- `SubWord` substitutes in each lane. -/
theorem lane_subWord (w : Word) (table : Byte → Byte) (j : Fin 4) : lane (subWord w table) j = table (lane w j) := by
  fin_cases j <;> simp [subWord]

/-! ## Cyclic matrices over the field (rules R88, R89) -/

/-- The word of which lane `j` is the sum of the lanes from `j` on, cyclically, each multiplied by one of the
four coefficients, which are the lanes of `c` in order. -/
def cyclicWord (c w : Word) : Word :=
  let row (a0 a1 a2 a3 : Byte) :=
    gmul a0 (lane c 0) ^^^ gmul a1 (lane c 1) ^^^ gmul a2 (lane c 2) ^^^ gmul a3 (lane c 3)
  word (row (lane w 0) (lane w 1) (lane w 2) (lane w 3)) (row (lane w 1) (lane w 2) (lane w 3) (lane w 0))
    (row (lane w 2) (lane w 3) (lane w 0) (lane w 1)) (row (lane w 3) (lane w 0) (lane w 1) (lane w 2))

theorem lane_cyclicWord (c w : Word) (j : Fin 4) :
    lane (cyclicWord c w) j = gmul (lane w j) (lane c 0) ^^^ gmul (lane w (j + 1)) (lane c 1) ^^^
      gmul (lane w (j + 2)) (lane c 2) ^^^ gmul (lane w (j + 3)) (lane c 3) := by
  fin_cases j
  · exact lane_word_zero ..
  · exact lane_word_one ..
  · exact lane_word_two ..
  · exact lane_word_three ..

/-- The coefficients of the matrix of `c` after that of `d`: coefficient `m` is the sum of the products of one of `c`
and one of `d` whose positions add up to `m` modulo 4. -/
def cyclicProduct (c d : Word) : Word := cyclicWord (word (lane c 0) (lane c 3) (lane c 2) (lane c 1)) d

theorem cyclicWord_cyclicWord (c d w : Word) : cyclicWord c (cyclicWord d w) = cyclicWord (cyclicProduct c d) w := by
  simp only [cyclicProduct, cyclicWord, lane_word_zero, lane_word_one, lane_word_two, lane_word_three, gmul_xor_left,
    gmul_xor_right, gmul_assoc, word_inj]
  refine ⟨?_, ?_, ?_, ?_⟩ <;> ac_rfl

theorem cyclicWord_xor (c u v : Word) : cyclicWord c (u ^^^ v) = cyclicWord c u ^^^ cyclicWord c v := by
  refine word_ext fun j => ?_
  simp only [lane_xor, lane_cyclicWord, gmul_xor_left]
  ac_rfl

/-- The matrix with the coefficients 1, 0, 0, 0 is the unit. -/
theorem cyclicWord_unit (w : Word) : cyclicWord (word 1#8 0#8 0#8 0#8) w = w := by
  refine word_ext fun j => ?_
  simp [lane_cyclicWord]

/-- Four equal lanes are multiplied by the sum of the coefficients. -/
theorem cyclicWord_equalLanes {c : Word} (hc : lane c 0 ^^^ lane c 1 ^^^ lane c 2 ^^^ lane c 3 = 1#8) (b : Byte) :
    cyclicWord c (word b b b b) = word b b b b := by
  simp only [cyclicWord, lane_word_zero, lane_word_one, lane_word_two, lane_word_three, ← gmul_xor_right, hc, gmul_one]

/-! ## The column mixings (rules R88 to R90) -/

/-- The coefficients 2, 3, 1, 1 of rule R88. -/
def mixCoefficients : Word := word 2#8 3#8 1#8 1#8

/-- The coefficients 14, 11, 13, 9 of rule R89. -/
def invMixCoefficients : Word := word 14#8 11#8 13#8 9#8

theorem mixWord_eq_cyclicWord (w : Word) : mixWord w = cyclicWord mixCoefficients w := by
  simp only [mixWord, cyclicWord, mixCoefficients, lane_word_zero, lane_word_one, lane_word_two, lane_word_three,
    gmul_one, word_inj]
  refine ⟨rfl, ?_, ?_, ?_⟩ <;> ac_rfl

theorem invMixWord_eq_cyclicWord (w : Word) : invMixWord w = cyclicWord invMixCoefficients w := by
  simp only [invMixWord, cyclicWord, invMixCoefficients, lane_word_zero, lane_word_one, lane_word_two, lane_word_three,
    word_inj]
  refine ⟨rfl, ?_, ?_, ?_⟩ <;> ac_rfl

/-- The two matrices are inverse to each other: their product, either way round, is the unit. -/
theorem cyclicProduct_mixCoefficients :
    cyclicProduct invMixCoefficients mixCoefficients = word 1#8 0#8 0#8 0#8 ∧
      cyclicProduct mixCoefficients invMixCoefficients = word 1#8 0#8 0#8 0#8 := by
  decide

theorem invMixWord_mixWord (w : Word) : invMixWord (mixWord w) = w := by
  rw [invMixWord_eq_cyclicWord, mixWord_eq_cyclicWord, cyclicWord_cyclicWord,
    cyclicProduct_mixCoefficients.1, cyclicWord_unit]

theorem mixWord_invMixWord (w : Word) : mixWord (invMixWord w) = w := by
  rw [invMixWord_eq_cyclicWord, mixWord_eq_cyclicWord, cyclicWord_cyclicWord,
    cyclicProduct_mixCoefficients.2, cyclicWord_unit]

theorem mixWord_xor (u v : Word) : mixWord (u ^^^ v) = mixWord u ^^^ mixWord v := by
  simp only [mixWord_eq_cyclicWord, cyclicWord_xor]

theorem invMixWord_xor (u v : Word) : invMixWord (u ^^^ v) = invMixWord u ^^^ invMixWord v := by
  simp only [invMixWord_eq_cyclicWord, cyclicWord_xor]

end Sys2Proof.Machine

namespace Sys2Proof.Proofs

open Machine

/-- Settles O25: the product is bilinear, so its symmetry and associativity are those of the doublings of 1; the
constant multiples are XORs of multiples by powers of 2. -/
theorem fieldProductLaws : Obligations.FieldProductLaws := by
  refine ⟨gmul_comm, gmul_assoc, gmul_xor_right, fun a => ⟨gmul_one a, gmul_zero a⟩, fun a => ?constants,
    by decide, by decide, by decide⟩
  case constants =>
    intro a2 a4 a8
    have h8 : gmul a 8 = a8 := gmul_eight a
    have h4 : gmul a 4 = a4 := gmul_four a
    have h2 : gmul a 2 = a2 := gmul_two a
    have h1 : gmul a 1 = a := gmul_one a
    refine ⟨h2, ?_, ?_, ?_, ?_, ?_⟩
    · rw [show (3 : Byte) = 2 ^^^ 1 from rfl, gmul_xor_right, h2, h1]
    · rw [show (9 : Byte) = 8 ^^^ 1 from rfl, gmul_xor_right, h8, h1]
    · rw [show (11 : Byte) = 8 ^^^ 2 ^^^ 1 from rfl, gmul_xor_right, gmul_xor_right, h8, h2, h1]
    · rw [show (13 : Byte) = 8 ^^^ 4 ^^^ 1 from rfl, gmul_xor_right, gmul_xor_right, h8, h4, h1]
    · rw [show (14 : Byte) = 8 ^^^ 4 ^^^ 2 from rfl, gmul_xor_right, gmul_xor_right, h8, h4, h2]

/-- Settles O26: both functions are permutations and substitutions of lanes, which commute lane by lane. -/
theorem rotWordAndSubWordActOnLanes : Obligations.RotWordAndSubWordActOnLanes := by
  refine ⟨fun _ => rfl, rotWord_eq_word, by decide, lane_subWord, fun w table => ?commute, by decide +kernel⟩
  case commute =>
    simp only [rotWord_eq_word, subWord, lane_word_zero, lane_word_one, lane_word_two, lane_word_three]

/-- Settles O27: the mixings are the cyclic matrices of rules R88 and R89, whose coefficients sum to 1. -/
theorem columnMixingMatrices : Obligations.ColumnMixingMatrices := by
  refine ⟨fun w j => ?mix, fun w j => ?invMix, fun b => ⟨?mixEqual, ?invMixEqual⟩, by decide +kernel⟩
  case mix =>
    simp only [mixWord_eq_cyclicWord, lane_cyclicWord, mixCoefficients, lane_word_zero, lane_word_one, lane_word_two,
      lane_word_three, gmul_one]
    rfl
  case invMix =>
    simp only [invMixWord_eq_cyclicWord, lane_cyclicWord, invMixCoefficients, lane_word_zero, lane_word_one,
      lane_word_two, lane_word_three]
    rfl
  case mixEqual => rw [mixWord_eq_cyclicWord, cyclicWord_equalLanes (by decide)]
  case invMixEqual => rw [invMixWord_eq_cyclicWord, cyclicWord_equalLanes (by decide)]

/-- Settles O28: the product of the two matrices is the unit, and a matrix over the field respects XOR. -/
theorem columnMixingsAreInverse : Obligations.ColumnMixingsAreInverse :=
  ⟨invMixWord_mixWord, mixWord_invMixWord, mixWord_xor, invMixWord_xor, by decide⟩

end Sys2Proof.Proofs
end

section
/-!
PROOF. The substitution tables (rules R84, R101 to R107): the powers of the generator and their logarithm, the inverse
of a byte, the affine transform, and the two tables as inverse functions; and the obligations about them.
-/

namespace Sys2Proof.Machine

/-! ## The powers of the generator (rule R101) -/

/-- One step of the table of powers is a multiplication by the generator 3. -/
theorem xor_xtime_eq_gmul (a : Byte) : a ^^^ xtime a = gmul a 3#8 := by
  rw [show 3#8 = 1#8 ^^^ 2#8 from rfl, gmul_xor_right, gmul_one]
  exact congrArg _ (gmul_two a).symm

@[simp] theorem powersFrom_length (n : Nat) (a : Byte) : (powersFrom n a).length = n := by
  induction n generalizing a with
  | zero => rfl
  | succ n ih => rw [powersFrom, List.length_cons, ih]

theorem powersFrom_getElem_succ {n i : Nat} (a : Byte) (hi : i + 1 < n) :
    (powersFrom n a)[i + 1]'(by simpa) = gmul ((powersFrom n a)[i]'(by simp; omega)) 3#8 := by
  induction i generalizing n a with
  | zero =>
    obtain ⟨m, rfl⟩ := Nat.exists_eq_add_of_lt hi
    simp [Nat.add_comm, powersFrom, xor_xtime_eq_gmul]
  | succ i ih =>
    obtain ⟨m, rfl⟩ : ∃ m, n = m + 1 := ⟨n - 1, by omega⟩
    simp only [powersFrom, List.getElem_cons_succ]
    exact ih _ (by omega)

theorem alog_eq_getElem {i : Nat} (hi : i < 256) : alog i = alogTable[i]'(by simpa [alogTable]) := by
  simp [alog, alogTable, hi]

theorem alog_zero : alog 0 = 1#8 := rfl

theorem alog_succ {i : Nat} (hi : i < 255) : alog (i + 1) = gmul (alog i) 3#8 := by
  rw [alog_eq_getElem (by omega), alog_eq_getElem (by omega)]
  exact powersFrom_getElem_succ _ (by omega)

/-- The order of the generator divides 255. -/
theorem alog_255 : alog 255 = 1#8 := by decide +kernel

/-- No power between the first and the last one is 1: the order of the generator is 255. -/
theorem alog_ne_one {i : Nat} (hpos : 0 < i) (hi : i < 255) : alog i ≠ 1#8 := by
  have hnot : 1#8 ∉ (alogTable.take 255).tail := by decide +kernel
  obtain ⟨j, rfl⟩ := Nat.exists_eq_add_of_lt hpos
  have hlen : 0 + j < (alogTable.take 255).tail.length := by simp [alogTable]; omega
  have hmem := List.getElem_mem hlen
  rw [List.getElem_tail, List.getElem_take, ← alog_eq_getElem (by omega)] at hmem
  exact fun hone => hnot (hone ▸ hmem)

/-- Powers multiply by adding their exponents. -/
theorem gmul_alog {i j : Nat} (h : i + j ≤ 255) : gmul (alog i) (alog j) = alog (i + j) := by
  induction j with
  | zero => rw [alog_zero, gmul_one]; rfl
  | succ j ih => rw [alog_succ (by omega), ← gmul_assoc, ih (by omega), ← alog_succ (by omega)]; rfl

/-- The powers below 255 are distinct: equal ones would give a power between that is 1. -/
theorem alog_inj {i j : Nat} (hi : i < 255) (hj : j < 255) (h : alog i = alog j) : i = j := by
  wlog hle : i ≤ j generalizing i j
  · exact (this hj hi h.symm (by omega)).symm
  by_contra hne
  have hone : alog (255 - j + i) = 1#8 := by
    rw [← gmul_alog (by omega), h, gmul_alog (by omega), Nat.sub_add_cancel hj.le, alog_255]
  exact alog_ne_one (by omega) (by omega) hone

theorem alog_ne_zero {i : Nat} (hi : i ≤ 255) : alog i ≠ 0#8 := by
  intro hzero
  have hone : gmul (alog (255 - i)) (alog i) = 1#8 := by
    rw [gmul_alog (by omega), Nat.sub_add_cancel hi, alog_255]
  rw [hzero, gmul_zero] at hone
  nomatch hone

/-- The bytes as powers of the generator, and 0 in the place that is left. -/
def powerOrZero (x : Byte) : Byte := if x.toNat < 255 then alog x.toNat else 0#8

theorem powerOrZero_injective : Function.Injective powerOrZero := by
  intro x y h
  have hx := x.isLt
  have hy := y.isLt
  simp only [powerOrZero] at h
  apply BitVec.eq_of_toNat_eq
  split_ifs at h
  · exact alog_inj ‹_› ‹_› h
  · exact absurd h (alog_ne_zero (by omega))
  · exact absurd h.symm (alog_ne_zero (by omega))
  · omega

/-- Every byte but 0 is a power of the generator. -/
theorem exists_alog_eq {x : Byte} (hx : x ≠ 0#8) : ∃ i < 255, alog i = x := by
  obtain ⟨i, hi⟩ := Finite.surjective_of_injective powerOrZero_injective x
  rw [powerOrZero] at hi
  split_ifs at hi with hlt
  · exact ⟨i.toNat, hlt, hi⟩
  · exact absurd hi.symm hx

/-! ## The logarithm and the inverse (rules R101, R102) -/

theorem log_alog {i : Nat} (hi : i < 255) : log (alog i) = some i := by
  rw [log, List.findIdx?_eq_some_iff_getElem]
  have hget {j : Nat} (hj : j < 255) : (alogTable.take 255)[j]'(by simp [alogTable]; omega) = alog j := by
    rw [List.getElem_take, alog_eq_getElem (by omega)]
  refine ⟨by simp [alogTable]; omega, ?_, fun j hj => ?_⟩
  · rw [hget hi, beq_self_eq_true]
  · rw [hget (by omega), beq_iff_eq]
    exact fun h => hj.ne (alog_inj (by omega) hi h)

theorem inv_alog {i : Nat} (hi : i < 255) : inv (alog i) = alog (255 - i) := by
  rw [inv, log_alog hi]

/-- The inverse of a byte other than 0 is its inverse for the product. -/
theorem gmul_inv {x : Byte} (hx : x ≠ 0#8) : gmul x (inv x) = 1#8 := by
  obtain ⟨i, hi, rfl⟩ := exists_alog_eq hx
  rw [inv_alog hi, gmul_alog (by omega), Nat.add_sub_cancel' hi.le, alog_255]

theorem inv_ne_zero {x : Byte} (hx : x ≠ 0#8) : inv x ≠ 0#8 := by
  intro hzero
  have hone := gmul_inv hx
  rw [hzero, gmul_zero] at hone
  nomatch hone

theorem inv_inj {x y : Byte} (hx : x ≠ 0#8) (hy : y ≠ 0#8) (h : inv x = inv y) : x = y :=
  calc x = gmul x (gmul y (inv y)) := by rw [gmul_inv hy, gmul_one]
    _ = gmul (gmul x (inv x)) y := by rw [← h, gmul_comm y, gmul_assoc]
    _ = y := by rw [gmul_inv hx, one_gmul]

/-! ## The affine transform (rules R84, R103) -/

/-- The rotation moves bit `i` up by `k`, modulo 8. -/
theorem getLsbD_rotl8 (a : Byte) {k i : Nat} (hk : k < 8) (hi : i < 8) :
    (rotl8 a k).getLsbD i = a.getLsbD ((i + (8 - k)) % 8) := by
  rw [rotl8, BitVec.getLsbD_or, BitVec.getLsbD_shiftLeft, BitVec.getLsbD_ushiftRight]
  rcases Nat.lt_or_ge i k with hlt | hge
  · rw [Nat.mod_eq_of_lt (by omega), Nat.add_comm]
    simp [hlt]
  · have hmod : (i + (8 - k)) % 8 = i - k := by omega
    rw [hmod, BitVec.getLsbD_of_ge a (8 - k + i) (by omega)]
    simp [hi, hge.not_gt]

theorem getLsbD_affine (y : Byte) {i : Nat} (hi : i < 8) :
    (affine y).getLsbD i =
      ((y.getLsbD i).xor ((y.getLsbD ((i + 4) % 8)).xor ((y.getLsbD ((i + 5) % 8)).xor
        ((y.getLsbD ((i + 6) % 8)).xor ((y.getLsbD ((i + 7) % 8)).xor ((0x63#8).getLsbD i)))))) := by
  have hrot1 : (rotl8 y 1).getLsbD i = y.getLsbD ((i + 7) % 8) := getLsbD_rotl8 y (by decide) hi
  have hrot2 : (rotl8 y 2).getLsbD i = y.getLsbD ((i + 6) % 8) := getLsbD_rotl8 y (by decide) hi
  have hrot3 : (rotl8 y 3).getLsbD i = y.getLsbD ((i + 5) % 8) := getLsbD_rotl8 y (by decide) hi
  have hrot4 : (rotl8 y 4).getLsbD i = y.getLsbD ((i + 4) % 8) := getLsbD_rotl8 y (by decide) hi
  simp only [affine, BitVec.getLsbD_xor, hrot1, hrot2, hrot3, hrot4]
  simp only [Bool.xor_assoc, Bool.xor_comm, Bool.xor_left_comm]

/-- The affine transform back: the rotations by 1, 3 and 6, and the constant 5. -/
def affineInverse (z : Byte) : Byte := rotl8 z 1 ^^^ rotl8 z 3 ^^^ rotl8 z 6 ^^^ 0x05#8

theorem affineInverse_affine (y : Byte) : affineInverse (affine y) = y := by
  revert y
  decide +kernel

theorem affine_injective : Function.Injective affine := Function.LeftInverse.injective affineInverse_affine

/-! ## The two tables (rules R104 to R107) -/

/-- The substitution is injective: so are the inverse and the affine transform, and 0x63 is the transform of 0. -/
theorem sboxEntry_injective : Function.Injective sboxEntry := by
  have hzero : 0x63#8 = affine 0#8 := rfl
  intro x y h
  simp only [sboxEntry, hzero] at h
  split_ifs at h with hx hy hy
  · rw [hx, hy]
  · exact absurd (affine_injective h).symm (inv_ne_zero hy)
  · exact absurd (affine_injective h) (inv_ne_zero hx)
  · exact inv_inj hx hy (affine_injective h)

theorem isboxEntry_sboxEntry (x : Byte) : isboxEntry (sboxEntry x) = x := by
  have hget {j : Nat} (hj : j < 256) : genSbox[j]'(by simpa) = sboxEntry (BitVec.ofNat 8 j) := by
    simp [genSbox, allBytes]
  have hfind : genSbox.findIdx? (· == sboxEntry x) = some x.toNat := by
    rw [List.findIdx?_eq_some_iff_getElem]
    refine ⟨by simp [x.isLt], ?_, fun j hj => ?_⟩
    · rw [hget x.isLt, BitVec.ofNat_toNat, BitVec.setWidth_eq, beq_self_eq_true]
    · have hlt := x.isLt
      rw [hget (by omega), beq_iff_eq]
      intro h
      have hjx := congrArg BitVec.toNat (sboxEntry_injective h)
      rw [BitVec.toNat_ofNat, Nat.mod_eq_of_lt (by omega)] at hjx
      omega
  rw [isboxEntry, hfind]
  exact BitVec.ofNat_toNat ..

theorem sboxEntry_isboxEntry (x : Byte) : sboxEntry (isboxEntry x) = x := by
  obtain ⟨y, rfl⟩ := Finite.surjective_of_injective sboxEntry_injective x
  rw [isboxEntry_sboxEntry]

/-- No byte is substituted by itself or by its complement: its inverse `y` would have the product 1 with the
transform of `y`, or with the complement of it. -/
theorem sboxEntry_no_fixedPoint (x : Byte) : sboxEntry x ≠ x ∧ sboxEntry x ≠ x ^^^ 0xFF#8 := by
  have hproduct : ∀ y : Byte, gmul (affine y) y ≠ 1#8 ∧ gmul (affine y ^^^ 0xFF#8) y ≠ 1#8 := by decide +kernel
  by_cases hx : x = 0#8
  · subst hx
    decide
  · have hone := gmul_inv hx
    rw [sboxEntry, if_neg hx]
    refine ⟨fun h => (hproduct (inv x)).1 ?_, fun h => (hproduct (inv x)).2 ?_⟩
    · rw [h, hone]
    · rw [h, BitVec.xor_assoc, BitVec.xor_self, BitVec.xor_zero, hone]

/-! ## The examples of rules R101 to R103 -/

theorem alog_examples :
    [alog 0, alog 1, alog 2, alog 3, alog 4, alog 5, alog 6, alog 7] =
      [0x01#8, 0x03#8, 0x05#8, 0x0f#8, 0x11#8, 0x33#8, 0x55#8, 0xff#8] := by
  decide +kernel

theorem log_examples : log 0x01#8 = some 0 ∧ log 0x02#8 = some 0x19 ∧ log 0x03#8 = some 0x01 := by decide +kernel

theorem inv_examples :
    inv 0x01#8 = 0x01#8 ∧ inv 0x02#8 = 0x8D#8 ∧ inv 0x03#8 = 0xF6#8 ∧ inv 0x53#8 = 0xCA#8 ∧ inv 0xCA#8 = 0x53#8 ∧
      inv 0xFF#8 = 0x1C#8 := by
  decide +kernel

theorem affine_examples :
    affine 0x00#8 = 0x63#8 ∧ affine 0x01#8 = 0x7C#8 ∧ affine 0x8D#8 = 0x77#8 ∧ affine 0xCA#8 = 0xED#8 ∧
      affine 0xFF#8 = 0x9C#8 := by
  decide

end Sys2Proof.Machine

namespace Sys2Proof.Proofs

open Machine

/-- Settles O30: the table of powers is a cyclic sequence of length 255 without a repetition, so that it has every
byte but 0, each with its logarithm; the affine transform is a XOR of rotations; and the examples are evaluated. -/
theorem tableGenerationSteps : Obligations.TableGenerationSteps := by
  obtain ⟨log1, log2, log3⟩ := log_examples
  obtain ⟨inv1, inv2, inv3, inv53, invCA, invFF⟩ := inv_examples
  obtain ⟨aff0, aff1, aff8D, affCA, affFF⟩ := affine_examples
  refine ⟨fun _ _ => rfl, by decide, alog_zero, fun i => ⟨?step, alog_succ i.isLt⟩, fun i => log_alog i.isLt, alog_255,
    alog_examples, log1, log2, log3, fun x hx => ?inverse, fun x hx => gmul_inv hx, inv1, inv2, inv3, inv53, invCA,
    invFF, fun _ => rfl, fun y i => getLsbD_affine y i.isLt, aff0, aff1, aff8D, affCA, affFF, rfl,
    fun x hx => if_neg hx⟩
  case step => rw [xor_xtime_eq_gmul, alog_succ i.isLt]
  case inverse =>
    obtain ⟨i, hi, rfl⟩ := exists_alog_eq hx
    exact ⟨⟨i, hi⟩, log_alog hi, inv_alog hi⟩

/-- Settles O31: the substitution is injective on the finitely many bytes, and `isboxEntry` looks it up. -/
theorem tablesAreInverse : Obligations.TablesAreInverse :=
  ⟨isboxEntry_sboxEntry, sboxEntry_isboxEntry, sboxEntry_no_fixedPoint⟩

end Sys2Proof.Proofs
end

section
/-!
PROOF. The two engines against each other (rules R126, R127, R136, R137, R139): the shifts are inverse to each other,
a round of one engine undoes a round of the other, and so does the whole engine under the inverted schedule; and
the obligations about them.
-/

namespace Sys2Proof.Machine

/-! ## The shifts (rules R127, R137) -/

/-- Two blocks with the same four words are the same block. -/
theorem block_ext {s t : Block} (h : ∀ c : Fin 4, s.get c = t.get c) : s = t := by
  cases s
  cases t
  simp only [Block.mk.injEq]
  exact ⟨h 0, h 1, h 2, h 3⟩

/-- Lane `j` of output word `c` of `SubShift` comes from word `c + j`. -/
theorem lane_subShift (table : Byte → Byte) (s : Block) (c j : Fin 4) :
    lane ((subShift table s).get c) j = table (lane (s.get (c + j)) j) := by
  have hword : (subShift table s).get c = word (table (lane (s.get c) 0)) (table (lane (s.get (c + 1)) 1))
      (table (lane (s.get (c + 2)) 2)) (table (lane (s.get (c + 3)) 3)) := by
    fin_cases c <;> rfl
  rw [hword]
  fin_cases j
  · simp
  · exact lane_word_one ..
  · exact lane_word_two ..
  · exact lane_word_three ..

/-- Lane `j` of output word `c` of `InvSubShift` comes from word `c - j`. -/
theorem lane_invSubShift (table : Byte → Byte) (s : Block) (c j : Fin 4) :
    lane ((invSubShift table s).get c) j = table (lane (s.get (c - j)) j) := by
  have hword : (invSubShift table s).get c = word (table (lane (s.get c) 0)) (table (lane (s.get (c - 1)) 1))
      (table (lane (s.get (c - 2)) 2)) (table (lane (s.get (c - 3)) 3)) := by
    fin_cases c <;> rfl
  rw [hword]
  fin_cases j
  · simp
  · exact lane_word_one ..
  · exact lane_word_two ..
  · exact lane_word_three ..

theorem invSubShift_subShift (s : Block) : invSubShift isboxEntry (subShift sboxEntry s) = s :=
  block_ext fun c => word_ext fun j => by rw [lane_invSubShift, lane_subShift, isboxEntry_sboxEntry, sub_add_cancel]

theorem subShift_invSubShift (s : Block) : subShift sboxEntry (invSubShift isboxEntry s) = s :=
  block_ext fun c => word_ext fun j => by
    rw [lane_subShift, lane_invSubShift, sboxEntry_isboxEntry, add_sub_cancel_right]

/-! ## The inverted schedule (rule R121) -/

theorem addRoundKey_map_invMixWord (s k : Block) :
    addRoundKey (s.map invMixWord) (k.map invMixWord) = (addRoundKey s k).map invMixWord := by
  simp only [addRoundKey, Block.map, invMixWord_xor]

theorem map_invMixWord_mixWord (s : Block) : (s.map mixWord).map invMixWord = s := by
  simp only [Block.map, invMixWord_mixWord]

/-- Inversion mixes the round keys between the first and the last one. -/
theorem roundKey_keyInvert_middle (ks : Nat → Word) {rounds n : Nat} (hpos : 0 < n) (hn : n < rounds) :
    roundKey (keyInvert ks rounds) n = (roundKey ks n).map invMixWord := by
  have hmixed (i : Nat) (hi : i < 4) : keyInvert ks rounds (4 * n + i) = invMixWord (ks (4 * n + i)) :=
    if_pos ⟨by omega, by omega⟩
  simp only [roundKey, Block.map, Block.mk.injEq]
  exact ⟨hmixed 0 (by decide), hmixed 1 (by decide), hmixed 2 (by decide), hmixed 3 (by decide)⟩

/-- It leaves the first and the last round key as they are. -/
theorem roundKey_keyInvert_ends (ks : Nat → Word) {rounds n : Nat} (hn : n = 0 ∨ n = rounds) :
    roundKey (keyInvert ks rounds) n = roundKey ks n :=
  roundKey_congr fun i hlo hhi => if_neg (by omega)

/-! ## One round against the other (rules R126, R136, R139) -/

section Rounds

variable (ks : Nat → Word) (rounds : Nat) (b : Block)

/-- The state after `n` rounds of encryption of a block. -/
abbrev encryptedState (n : Nat) : Block := encryptRounds sboxEntry ks rounds n (addRoundKey b (roundKey ks 0))

/-- After `n` rounds of decryption the state is that of the encryption before its last `n + 1` rounds, shifted:
the key addition of the encryption's next round is undone, and so are its mixing and its predecessor's key. -/
theorem decryptRounds_encryptBlock {n m : Nat} (h : n + m + 1 = rounds) :
    decryptRounds isboxEntry (keyInvert ks rounds) rounds n
        (addRoundKey (encryptBlock sboxEntry ks rounds b) (roundKey (keyInvert ks rounds) rounds)) =
      subShift sboxEntry (encryptedState ks rounds b m) := by
  induction n generalizing m with
  | zero =>
    obtain rfl : rounds = m + 1 := by omega
    rw [decryptRounds, roundKey_keyInvert_ends ks (.inr rfl), encryptBlock, encryptRounds, encryptRound]
    simp
  | succ n ih =>
    have hlast : n < rounds - 1 := by omega
    have hkey : rounds - 1 - n = m + 1 := by omega
    have hmix : m < rounds - 1 := by omega
    rw [decryptRounds, ih (m := m + 1) (by omega), decryptRound]
    simp only [invSubShift_subShift, if_pos hlast, hkey]
    rw [roundKey_keyInvert_middle ks (by omega) (by omega), addRoundKey_map_invMixWord, encryptedState,
      encryptRounds, encryptRound]
    simp only [if_pos hmix, addRoundKey_addRoundKey, map_invMixWord_mixWord]

/-- Decryption under the inverted schedule undoes encryption, for every schedule of at least one round. -/
theorem decryptBlock_encryptBlock (hpos : 0 < rounds) :
    decryptBlock isboxEntry (keyInvert ks rounds) rounds (encryptBlock sboxEntry ks rounds b) = b := by
  obtain ⟨n, rfl⟩ : ∃ n, rounds = n + 1 := ⟨rounds - 1, by omega⟩
  rw [decryptBlock, decryptRounds, decryptRounds_encryptBlock ks (n + 1) b (m := 0) rfl, decryptRound]
  simp [invSubShift_subShift, roundKey_keyInvert_ends, encryptRounds]

end Rounds

/-! ## Known answers and wrong schedules (rules R138, R176) -/

/-- The example's key, as a 256-bit key. -/
def exampleKeyRegs : KeyRegs :=
  ⟨0x00010203#32, 0x04050607#32, 0x08090A0B#32, 0x0C0D0E0F#32, 0x10111213#32, 0x14151617#32, 0x18191A1B#32,
    0x1C1D1E1F#32⟩

/-- The known answer of 256 bits. -/
theorem encryptBlock_k256_example :
    encryptBlock sboxEntry (wordAt (keyExpand sboxEntry State.reset.rconAt .k256 exampleKeyRegs)) 14
        ⟨0x00112233#32, 0x44556677#32, 0x8899AABB#32, 0xCCDDEEFF#32⟩ =
      ⟨0x8EA2B7CA#32, 0x516745BF#32, 0xEAFC4990#32, 0x4B496089#32⟩ := by
  decide +kernel

/-- Decryption under a schedule that is not inverted. -/
theorem decryptBlock_notInverted_example :
    decryptBlock isboxEntry (wordAt (keyExpand sboxEntry State.reset.rconAt .k128 exampleKeyRegs)) 10
        ⟨0x69C4E0D8#32, 0x6A7B0430#32, 0xD8CDB780#32, 0x70B4C55A#32⟩ =
      ⟨0xAC45B5B0#32, 0x7D71616E#32, 0xEE15D89C#32, 0xED58210A#32⟩ := by
  decide +kernel

/-- Encryption under a schedule that is inverted. -/
theorem encryptBlock_inverted_example :
    encryptBlock sboxEntry (keyInvert (wordAt (keyExpand sboxEntry State.reset.rconAt .k128 exampleKeyRegs)) 10) 10
        ⟨0x00112233#32, 0x44556677#32, 0x8899AABB#32, 0xCCDDEEFF#32⟩ =
      ⟨0x6F41FA9D#32, 0xEA4923AD#32, 0x4758B8A2#32, 0x33558C82#32⟩ := by
  decide +kernel

end Sys2Proof.Machine

namespace Sys2Proof.Proofs

open Machine

/-- Settles O37: the lanes one by one, and the examples evaluated. -/
theorem shiftedLanes : Obligations.ShiftedLanes :=
  ⟨lane_subShift, lane_invSubShift, by decide +kernel⟩

/-- Settles O38: lane `j` moves `j` words one way and `j` words back, through a table and its inverse. -/
theorem shiftsAreInverse : Obligations.ShiftsAreInverse := ⟨invSubShift_subShift, subShift_invSubShift⟩

/-- Settles O42: the engines undo each other round by round, whatever the schedule is. -/
theorem decryptionUndoesEncryption : Obligations.DecryptionUndoesEncryption :=
  fun _ size _ p => decryptBlock_encryptBlock _ size.rounds p (by cases size <;> decide)

/-- Settles O43: the spec gives these blocks as results of executing its rules, and so they are evaluated here. -/
theorem derivedAnswers : Obligations.DerivedAnswers :=
  ⟨encryptBlock_k256_example, decryptBlock_notInverted_example, encryptBlock_inverted_example⟩

end Sys2Proof.Proofs
end

section
/-!
PROOF. The public operations as a host sees them (rules R68, R147, R148): the two lines that restore a block, what
their result depends on, and the unit commands with the same effect; the block's wire bytes (rule R43); and the
obligations about them.
-/

namespace Sys2Proof.Machine

/-! ## The lines of a command (rule R68) -/

/-- A run of `m + n` steps is a run of `n` steps from where the first `m` lead. -/
theorem run_add {M : Host.Core} {s t : M.State} {m : Nat} (h : M.run m s = .next t) (n : Nat) :
    M.run (m + n) s = M.run n t := by
  induction m generalizing s with
  | zero =>
    cases h
    rw [Nat.zero_add]
  | succ m ih =>
    rw [Nat.succ_add, Host.Core.run]
    rw [Host.Core.run] at h
    cases hstep : M.step s with
    | next u => rw [hstep] at h; exact ih h
    | fault r => rw [hstep] at h; nomatch h
    | refused r => rw [hstep] at h; nomatch h

theorem afterCommand_frame (i : Instr) (s : State) :
    (afterCommand i s).key = s.key ∧ (afterCommand i s).rcon = s.rcon ∧ (afterCommand i s).rst = s.rst ∧
      (afterCommand i s).port = s.port ∧ (afterCommand i s).reads = s.reads := by
  rcases afterCommand_cases i s with ⟨code, -, h⟩ | ⟨-, -, h⟩ <;> rw [h]
  · exact ⟨rfl, rfl, rfl, rfl, rfl⟩
  · exact commandWrites_frame i s

/-- The state after `RUN` of a command on an idle core, with the events behind the line still to come: the command
accepted and completed, and `STATUS` read once. -/
def afterLine (i : Instr) (rest : List Event) (s : State) : State :=
  hostRead 1#4 { afterCommand i (accept (encode i) { s with port := .regRead 1#4 :: rest }) with port := rest }

section Line

variable {i : Instr} {s : State} {rest : List Event}

/-- With `rst` released, the core's turn among the events completes the command whose word is pending. -/
theorem step_coreEvent_of_pending (hrst : s.rst = false) (hbusy : s.busy = true) (hpend : s.pend = some (encode i))
    (hport : s.port = .core :: rest) : step s = .next (afterCommand i { s with port := rest }) := by
  have hturn := coreTurn_of_decode (s := { s with port := rest }) hrst hbusy hpend (decode_encode i)
  rw [step_cons hport, runEvent, hturn, exec_eq]

/-- The three events of the line: the write is accepted, the core's turn completes the command, the read is
recorded. -/
theorem run_lineRun (hrst : s.rst = false) (hidle : s.busy = false) (hport : s.port = lineRun i ++ rest) :
    core.run 3 s = .next (afterLine i rest s) := by
  have haccept : core.step s = .next (accept (encode i) { s with port := .core :: .regRead 1#4 :: rest }) :=
    step_regWrite_idle hrst hidle hport
  have hturn : core.step (accept (encode i) { s with port := .core :: .regRead 1#4 :: rest }) =
      .next (afterCommand i (accept (encode i) { s with port := .regRead 1#4 :: rest })) :=
    step_coreEvent_of_pending (s := accept (encode i) { s with port := .core :: .regRead 1#4 :: rest }) hrst rfl rfl rfl
  obtain ⟨-, -, -, hport', -⟩ := afterCommand_frame i (accept (encode i) { s with port := .regRead 1#4 :: rest })
  calc core.run 3 s
      = core.run 2 (accept (encode i) { s with port := .core :: .regRead 1#4 :: rest }) :=
        run_succ (M := core) haccept 2
    _ = core.run 1 (afterCommand i (accept (encode i) { s with port := .regRead 1#4 :: rest })) :=
        run_succ (M := core) hturn 1
    _ = .next (afterLine i rest s) := run_succ (M := core) (step_regRead hport') 0

/-- After the line the core is idle with the outcome shown, and the key, `RCON` and `rst` are as before. -/
theorem afterLine_frame (i : Instr) (rest : List Event) (s : State) :
    (afterLine i rest s).port = rest ∧ (afterLine i rest s).busy = false ∧ (afterLine i rest s).done = true ∧
      (afterLine i rest s).rst = s.rst ∧ (afterLine i rest s).key = s.key := by
  obtain ⟨hdone, hidle, -⟩ := afterCommand_completed i (accept (encode i) { s with port := .regRead 1#4 :: rest })
  obtain ⟨hkey, -, hrst, -, -⟩ := afterCommand_frame i (accept (encode i) { s with port := .regRead 1#4 :: rest })
  exact ⟨rfl, hidle, hdone, hrst, hkey⟩

theorem afterLine_inv (hinv : MachineInv s) (hrst : s.rst = false) (i : Instr) (rest : List Event) :
    MachineInv (afterLine i rest s) :=
  have hstart := withPort_inv hinv (.regRead 1#4 :: rest)
  hostRead_inv (withPort_inv (afterCommand_inv (accept_inv hstart hrst _) hrst i) rest) 1#4

end Line

/-! ## The round trip (rule R147) -/

/-- The schedule of `KEY[0..3]`, in a state of the invariant that of the round constants of reset. -/
def keySchedule (key : KeyRegs) : Nat → Word := wordAt (keyExpand sboxEntry State.reset.rconAt .k128 key)

section Public

variable {s : State} (hinv : MachineInv s)
include hinv

theorem afterCommand_encrypt_blk :
    (afterCommand (.encrypt 0#2) s).blk = encryptBlock sboxEntry (keySchedule s.key) 10 s.blk := by
  rw [keySchedule, ← rconAt_of_inv hinv]
  exact encryptPublic_blk hinv.tables

theorem afterCommand_decrypt_blk :
    (afterCommand (.decrypt 0#2) s).blk = decryptBlock isboxEntry (keyInvert (keySchedule s.key) 10) 10 s.blk := by
  rw [keySchedule, ← rconAt_of_inv hinv]
  exact decryptPublic_blk hinv.tables

variable (hrst : s.rst = false)
include hrst

/-- The line changes the block as the command does. -/
theorem afterLine_blk {i : Instr} {rest : List Event} {f : Block → Block}
    (hf : ∀ u, MachineInv u → u.key = s.key → (afterCommand i u).blk = f u.blk) :
    (afterLine i rest s).blk = f s.blk :=
  hf _ (accept_inv (withPort_inv hinv (.regRead 1#4 :: rest)) hrst (encode i)) rfl

/-- DECRYPT behind ENCRYPT gives the block back, the key being the same in both. -/
theorem afterLine_decrypt_encrypt_blk (rest rest' : List Event) :
    (afterLine (.decrypt 0#2) rest' (afterLine (.encrypt 0#2) rest s)).blk = s.blk := by
  obtain ⟨-, -, -, hrst', hkey⟩ := afterLine_frame (.encrypt 0#2) rest s
  have hinv' := afterLine_inv hinv hrst (.encrypt 0#2) rest
  have hcipher : (afterLine (.encrypt 0#2) rest s).blk = encryptBlock sboxEntry (keySchedule s.key) 10 s.blk :=
    afterLine_blk hinv hrst fun u hu huk => huk ▸ afterCommand_encrypt_blk hu
  have hplain : (afterLine (.decrypt 0#2) rest' (afterLine (.encrypt 0#2) rest s)).blk =
      decryptBlock isboxEntry (keyInvert (keySchedule s.key) 10) 10 (afterLine (.encrypt 0#2) rest s).blk :=
    afterLine_blk hinv' (hrst'.trans hrst) fun u hu huk => hkey ▸ huk ▸ afterCommand_decrypt_blk hu
  rw [hplain, hcipher, decryptBlock_encryptBlock _ _ _ (by decide)]

end Public

/-! ## What the result depends on (rule R147) -/

/-- The schedule of 128 bits is that of the lower four key registers. -/
theorem keySchedule_congr {k k' : KeyRegs} (h : k.words .k128 = k'.words .k128) : keySchedule k = keySchedule k' := by
  rw [keySchedule, keySchedule, keyExpand, keyExpand, h]

/-! ## The unit commands with the same effect (rule R148) -/

section UnitCommands

variable {s : State}

/-- With the tables in place ENCBLK encrypts with the generated table. -/
theorem encryptInPlace_blk_of_tables (htv : s.tv = true) (hsbox : s.sbox = genSbox.map some) :
    (encryptInPlace s).blk = encryptBlock sboxEntry s.ksAt s.rounds.toNat s.blk := by
  rw [encryptInPlace, ensureTables, if_pos htv, sboxAt_of_tables hsbox]

/-- With the tables in place DECBLK decrypts with the generated table. -/
theorem decryptInPlace_blk_of_tables (htv : s.tv = true) (hisbox : s.isbox = genIsbox.map some) :
    (decryptInPlace s).blk = decryptBlock isboxEntry s.ksAt s.rounds.toNat s.blk := by
  rw [decryptInPlace, ensureTables, if_pos htv, isboxAt_of_tables hisbox]

variable (hinv : MachineInv s)
include hinv

/-- The context that KEYEXP of 128 bits makes holds the schedule of the key. -/
theorem expandKey_ksAt_eq_keySchedule {i : Nat} (hi : i < 44) : (expandKey .k128 s).ksAt i = keySchedule s.key i := by
  rw [keySchedule, ← rconAt_of_inv hinv]
  exact expandKey_ksAt hinv hi

/-- ENCBLK after KEYEXP of 128 bits does to the block what ENCRYPT does. -/
theorem keyexp_encblk_blk :
    (encryptInPlace (complete 0#3 (expandKey .k128 s))).blk = encryptBlock sboxEntry (keySchedule s.key) 10 s.blk := by
  have hblk : (complete 0#3 (expandKey .k128 s)).blk = s.blk := ensureTables_blk s
  obtain ⟨hsbox, -⟩ := ensureTables_tables hinv.tables
  rw [encryptInPlace_blk_of_tables (s := complete 0#3 (expandKey .k128 s)) (ensureTables_tv s) hsbox, hblk]
  exact encryptBlock_congr _ _ _ fun i hi => expandKey_ksAt_eq_keySchedule hinv hi

/-- DECBLK after KEYEXP of 128 bits and KEYINV does to the block what DECRYPT does. -/
theorem keyexp_keyinv_decblk_blk :
    (decryptInPlace (complete 0#3 (invertSchedule (complete 0#3 (expandKey .k128 s))))).blk =
      decryptBlock isboxEntry (keyInvert (keySchedule s.key) 10) 10 s.blk := by
  have hblk : (complete 0#3 (invertSchedule (complete 0#3 (expandKey .k128 s)))).blk = s.blk := ensureTables_blk s
  have hmem : MemoryWf (complete 0#3 (expandKey .k128 s)) := (expandKey_memoryWf hinv .k128).of_eq rfl rfl rfl rfl
  obtain ⟨-, hisbox⟩ := ensureTables_tables hinv.tables
  rw [decryptInPlace_blk_of_tables (s := complete 0#3 (invertSchedule (complete 0#3 (expandKey .k128 s))))
    (ensureTables_tv s) hisbox, hblk]
  exact decryptBlock_congr _ _ _ fun i hi =>
    (invertSchedule_ksAt hmem).trans (keyInvert_congr 10 (expandKey_ksAt_eq_keySchedule hinv hi))

end UnitCommands

/-! ## The bytes of a block (rule R43) -/

/-- The bytes of the word that four bytes make are the four bytes. -/
theorem wordToBigEndianBytes_bigEndianWordOf (b0 b1 b2 b3 : Byte) :
    wordToBigEndianBytes (bigEndianWordOf b0 b1 b2 b3) = [b0, b1, b2, b3] := by
  rw [bigEndianWordOf_eq_word, wordToBigEndianBytes_eq_lanes, lane_word_zero, lane_word_one, lane_word_two,
    lane_word_three]

theorem bytesOfBlock_blockOfBytes (b : Vector Byte 16) : bytesOfBlock (blockOfBytes b) = b.toList := by
  simp only [bytesOfBlock, blockOfBytes, wireWord, wordToBigEndianBytes_bigEndianWordOf]
  refine List.ext_getElem (by simp) fun i hi _ => ?_
  replace hi : i < 16 := hi
  interval_cases i <;> rfl

end Sys2Proof.Machine

namespace Sys2Proof.Proofs

open Machine

/-- Settles O46: two lines after each other, the second one's engine undoing the first one's. -/
theorem publicRoundTrip : Obligations.PublicRoundTrip := by
  intro s hinv hidle hrst hport
  obtain ⟨hport', hidle', -, hrst', hkey'⟩ := afterLine_frame (.encrypt 0#2) (lineRun (.decrypt 0#2)) s
  obtain ⟨-, hidle'', hdone, -, hkey''⟩ :=
    afterLine_frame (.decrypt 0#2) [] (afterLine (.encrypt 0#2) (lineRun (.decrypt 0#2)) s)
  have hsecond := run_lineRun (rest := []) (hrst'.trans hrst) hidle' (hport'.trans (List.append_nil _).symm)
  exact ⟨_, (run_add (M := core) (run_lineRun hrst hidle hport) 3).trans hsecond,
    afterLine_decrypt_encrypt_blk hinv hrst _ _, hkey''.trans hkey', hidle'', hdone, rfl⟩

/-- Settles O47: both public operations read the lower four key registers and the block. -/
theorem publicResultDependsOnKeyAndBlock : Obligations.PublicResultDependsOnKeyAndBlock := by
  intro s s' hinv hinv' hblk h0 h1 h2 h3 i hi
  have hkey : keySchedule s.key = keySchedule s'.key :=
    keySchedule_congr (by rw [KeyRegs.words, KeyRegs.words, h0, h1, h2, h3])
  refine ⟨_, _, exec_eq i s, exec_eq i s', ?_⟩
  simp only [List.mem_cons, List.not_mem_nil, or_false] at hi
  rcases hi with rfl | rfl
  · rw [afterCommand_encrypt_blk hinv, afterCommand_encrypt_blk hinv', hkey, hblk]
  · rw [afterCommand_decrypt_blk hinv, afterCommand_decrypt_blk hinv', hkey, hblk]

/-- Settles O48: the context of the unit commands holds the schedule that the composite commands compute. -/
theorem compositeEqualsUnitCommands : Obligations.CompositeEqualsUnitCommands := by
  intro s hinv
  refine ⟨⟨_, _, _, exec_keyexp rfl s, exec_encblk rfl, exec_encrypt s, ?encrypt, ?encryptKey, rfl,
      ?encryptContext, rfl⟩,
    ⟨_, _, _, _, exec_keyexp rfl s, exec_keyinv rfl, exec_decblk rfl, exec_decrypt s, ?decrypt, ?decryptKey, rfl,
      ?decryptContext, rfl⟩⟩
  case encrypt => exact (afterCommand_encrypt_blk hinv).trans (keyexp_encblk_blk hinv).symm
  case encryptKey => simp [encryptPublic, encryptInPlace, expandKey]
  case encryptContext => exact ensureTables_ksv (complete 0#3 (expandKey .k128 s))
  case decrypt => exact (afterCommand_decrypt_blk hinv).trans (keyexp_keyinv_decblk_blk hinv).symm
  case decryptKey => simp [decryptPublic, decryptInPlace, expandKey]
  case decryptContext => exact ensureTables_ksv (complete 0#3 (invertSchedule (complete 0#3 (expandKey .k128 s))))

/-- Settles O51: word by word, the bytes of the word are the four bytes. -/
theorem blockHoldsItsWireBytes : Obligations.BlockHoldsItsWireBytes :=
  ⟨bytesOfBlock_blockOfBytes, by decide⟩

end Sys2Proof.Proofs
end
